-- ==== Sys2Proof/Word.lean ====
section
/-! DEFINITION. The words of the codec: a duration, a pulse pair and the 64-bit frame word. -/

namespace Sys2Proof

/-- A duration in microseconds, unsigned, `DUR_W` = 32 bits (00_scope.md R7, R10). -/
abbrev Duration := BitVec 32

/-- The 64-bit frame word `W` (30_encoding.md R74). -/
abbrev FrameWord := BitVec 64

/-- One element of `RX_BUF` or `TX_SEQ`: the mark (high) and the space (low) that follows it, in
microseconds (20_memory.md R51). -/
structure PulsePair where
  mark : Duration
  space : Duration
  deriving DecidableEq, Repr

end Sys2Proof
end

