-- ==== Sys2Proof/Config.lean ====
section
/-! DEFINITION. The parameters of 00_scope.md R7: those the source fixes as named constants, those it
leaves OPEN as opaque constants that no proof can see into. -/

namespace Sys2Proof

/-- `TOL_MODE` (00_scope.md R7, 92_eei_decisions.md D6). -/
inductive TolMode where
  | pct
  | abs
  deriving DecidableEq, Repr, Inhabited

/-- The tolerance parameters with their legal ranges: `TOL_PCT` in 0..100, `TOL_ABS` in
0..2^DUR_W-1 microseconds (00_scope.md R7). -/
structure Tolerance where
  mode : TolMode
  pct : Fin 101
  abs : BitVec 32
  deriving DecidableEq, Repr, Inhabited

/-- `UNIT_US`: microseconds per base unit (00_scope.md R7). -/
def Config.unitUs : Nat := 300

/-- `REPEATS`: frame copies per ENCODE (00_scope.md R7). -/
def Config.repeats : Nat := 6

/-- `PREAMBLE_LEN`: preamble symbols when enabled (00_scope.md R7). -/
def Config.preambleLen : Nat := 8

/-- `FRAME_BITS`: bits of one frame (00_scope.md R7). -/
def Config.frameBits : Nat := 64

/-- `START_CODE`, a constant no host write can change (00_scope.md R7, 40_frame_codec.md R107). -/
def Config.startCode : BitVec 8 := 0xA3#8

/-- `TOL_MODE`, `TOL_PCT` and `TOL_ABS`: OPEN, fixed for a run (00_scope.md R7, 92_eei_decisions.md
D6, D30). DESIGN CHOICE (log entry 11), safe: no body, so a claim about the machine holds for every
legal tolerance. -/
opaque Config.tolerance : Tolerance

/-- `RX_CAP`: the most pairs the RX buffer holds: OPEN (00_scope.md R7, 92_eei_decisions.md D29).
DESIGN CHOICE (log entry 11), safe: no body. -/
opaque Config.rxCap : Nat

end Sys2Proof
end

