-- ==== Sys2Proof/Syntax.lean ====
section
/-! DEFINITION. What the block is given: the rows of spec/opcode_table.json (Instr), the encoded forms
they take (Code), the registers, the host accesses, and the host-program statements of 30_encoding.md
R83 and R84. -/

namespace Sys2Proof

/-- The five pulse symbols of the symbol timing table (10_state.md R30). -/
inductive Symbol where
  | sync
  | eom
  | bitOne
  | bitZero
  | preambleBit
  deriving DecidableEq, Repr

/-- The rows of spec/opcode_table.json: five operations issued by a write to `CMD` (30_encoding.md
R71) and five pulse symbols (30_encoding.md R77). -/
inductive Instr where
  /-- CKSUM (40_frame_codec.md R101). -/
  | cksum
  /-- PACK (40_frame_codec.md R103). -/
  | pack
  /-- UNPACK (40_frame_codec.md R105). -/
  | unpack
  /-- ENCODE with its PRE bit, the only operand in a command word (41_pulse_encoder.md R133). -/
  | encode (pre : Bool)
  /-- DECODE (42_pulse_decoder.md R168). -/
  | decode
  /-- The SYNC symbol (10_state.md R30, 41_pulse_encoder.md R131). -/
  | sync
  /-- The EOM symbol. -/
  | eom
  /-- The BIT_ONE symbol. -/
  | bitOne
  /-- The BIT_ZERO symbol. -/
  | bitZero
  /-- The PREAMBLE_BIT symbol, emitted only by ENCODE's preamble (30_encoding.md R78). -/
  | preambleBit
  deriving DecidableEq, Repr

/-- The five operations, as `STATUS.OP` and `CMD.OP` name them (30_encoding.md R71). -/
inductive Op where
  | cksum
  | pack
  | unpack
  | encode
  | decode
  deriving DecidableEq, Repr

/-- An encoded row of the opcode table: a 4-bit command word (30_encoding.md R70) or a waveform, one
Bool per 300 us unit in time order, `true` for mark (30_encoding.md R77). -/
inductive Code where
  | command (c : BitVec 4)
  | waveform (units : List Bool)
  deriving DecidableEq, Repr

/-- Why a code is no row of the opcode table: the decoder's rejections, by name. -/
inductive DecodeReject where
  /-- OP 0b101, 0b110 or 0b111 (30_encoding.md R72). -/
  | reservedOp (c : BitVec 4)
  /-- PRE = 1 with an OP other than ENCODE's (30_encoding.md R72). -/
  | preWithoutEncode (c : BitVec 4)
  /-- A waveform that is none of the symbols of 30_encoding.md R77. -/
  | unknownWaveform (units : List Bool)
  deriving DecidableEq, Repr

/-- The registers of 10_state.md R21. The numbers 0xE and 0xF have none. -/
inductive Reg where
  | cmd
  | status
  | inDevice
  | inAddress
  | inCommand
  | inBits
  | inBitcount
  | outCksum
  | outWord
  | decStart
  | decDevice
  | decAddress
  | decCommand
  | decCksum
  deriving DecidableEq, Repr

/-- A host access: a register access `(num, data)` (30_encoding.md R73) or a host action of
20_memory.md R61. The data of a write is a Nat: the spec gives the bus no width (DESIGN CHOICE, log
entry 8, safe). -/
inductive HostAccess where
  | write (num : BitVec 4) (data : Nat)
  | read (num : BitVec 4)
  | loadRx (pairs : List PulsePair)
  | appendRx (pairs : List PulsePair)
  | readCur
  | drainTx (n : Nat)
  deriving DecidableEq, Repr

/-- What the next step is given. `symbol` presents one symbol's waveform to the encoder's EmitSymbol
(41_pulse_encoder.md R131) by itself. DESIGN CHOICE (log entry 3), safe: no host access of the spec
does this; it lets a pulse row of the opcode table run alone. -/
inductive Input where
  | access (a : HostAccess)
  | symbol (units : List Bool)
  deriving DecidableEq, Repr

/-- A host-program statement or macro (30_encoding.md R83, R84). SETBITS may leave its count out. -/
inductive Stmt where
  | wr (r : Reg) (value : Nat)
  | rd (r : Reg)
  | cksum
  | pack
  | unpack
  | encode (pre : Bool)
  | decode
  | loadRx (pairs : List PulsePair)
  | appendRx (pairs : List PulsePair)
  | readCur
  | drainTx (n : Nat)
  | setFrame (device address command : Nat)
  | send (device address command : Nat) (pre : Bool)
  | setBits (word : Nat) (count : Option Nat)
  | loopback
  deriving DecidableEq, Repr

end Sys2Proof
end

