-- ==== Sys2Proof/Decode.lean ====
section
/-! DEFINITION. The encodings of 30_encoding.md: the command word and the waveforms, read by `decode`
and written by `encode`; the register numbers; the table's numbering of an instruction's bits. -/

namespace Sys2Proof

/-- The OP field value of an operation (30_encoding.md R71). -/
def Op.bits : Op → BitVec 3
  | .cksum => 0b000#3
  | .pack => 0b001#3
  | .unpack => 0b010#3
  | .encode => 0b011#3
  | .decode => 0b100#3

/-- The symbol timing table in base units, (mark, space); PREAMBLE_BIT is BIT_ZERO's pair
(10_state.md R30). -/
def Symbol.units : Symbol → Nat × Nat
  | .sync => (17, 2)
  | .eom => (2, 17)
  | .bitOne => (2, 1)
  | .bitZero => (1, 2)
  | .preambleBit => (1, 2)

/-- A symbol's waveform at one Bool per base unit, mark units first (30_encoding.md R77). -/
def Symbol.waveform (y : Symbol) : List Bool :=
  List.replicate y.units.1 true ++ List.replicate y.units.2 false

/-- The command word of an operation: `CMD[2:0]` = OP, `CMD[3]` = PRE (10_state.md R22). -/
def commandWord (op : Op) (pre : Bool) : BitVec 4 :=
  BitVec.ofBool pre ++ op.bits

/-- The operation a command word selects. ENCODE is matched on `CMD & 0x7`, with PRE = `CMD[3]`; the
other words are matched on all four bits (30_encoding.md R71, R72). -/
def decodeCommand (c : BitVec 4) : Except DecodeReject Instr :=
  if c &&& 0x7#4 = 0x3#4 then .ok (.encode (c.getLsbD 3))
  else if c = 0x0#4 then .ok .cksum
  else if c = 0x1#4 then .ok .pack
  else if c = 0x2#4 then .ok .unpack
  else if c = 0x4#4 then .ok .decode
  else if c.extractLsb' 0 3 = 0b101#3 ∨ c.extractLsb' 0 3 = 0b110#3 ∨ c.extractLsb' 0 3 = 0b111#3 then
    .error (.reservedOp c)
  else .error (.preWithoutEncode c)

/-- The symbol a waveform spells. PREAMBLE_BIT has BIT_ZERO's waveform and is never looked for
(30_encoding.md R78), so that waveform reads as BIT_ZERO. DEDUCED (log entry 4), safe. -/
def decodeWaveform (w : List Bool) : Except DecodeReject Instr :=
  if w = Symbol.waveform .sync then .ok .sync
  else if w = Symbol.waveform .eom then .ok .eom
  else if w = Symbol.waveform .bitOne then .ok .bitOne
  else if w = Symbol.waveform .bitZero then .ok .bitZero
  else .error (.unknownWaveform w)

/-- The decoder, total on every code. -/
def decode : Code → Except DecodeReject Instr
  | .command c => decodeCommand c
  | .waveform w => decodeWaveform w

/-- The encoder: the code of an instruction (30_encoding.md R71, R77). -/
def encode : Instr → Code
  | .cksum => .command (commandWord .cksum false)
  | .pack => .command (commandWord .pack false)
  | .unpack => .command (commandWord .unpack false)
  | .encode pre => .command (commandWord .encode pre)
  | .decode => .command (commandWord .decode false)
  | .sync => .waveform (Symbol.waveform .sync)
  | .eom => .waveform (Symbol.waveform .eom)
  | .bitOne => .waveform (Symbol.waveform .bitOne)
  | .bitZero => .waveform (Symbol.waveform .bitZero)
  | .preambleBit => .waveform (Symbol.waveform .preambleBit)

/-- The register number (10_state.md R21). -/
def Reg.num : Reg → BitVec 4
  | .cmd => 0x0#4
  | .status => 0x1#4
  | .inDevice => 0x2#4
  | .inAddress => 0x3#4
  | .inCommand => 0x4#4
  | .inBits => 0x5#4
  | .inBitcount => 0x6#4
  | .outCksum => 0x7#4
  | .outWord => 0x8#4
  | .decStart => 0x9#4
  | .decDevice => 0xA#4
  | .decAddress => 0xB#4
  | .decCommand => 0xC#4
  | .decCksum => 0xD#4

/-- Every register, in the order of 10_state.md R21. -/
def Reg.all : List Reg :=
  [.cmd, .status, .inDevice, .inAddress, .inCommand, .inBits, .inBitcount, .outCksum, .outWord,
    .decStart, .decDevice, .decAddress, .decCommand, .decCksum]

/-- The register a number names; none for the reserved 0xE and 0xF (30_encoding.md R82). -/
def regOfNum (n : BitVec 4) : Option Reg :=
  Reg.all.find? fun r => r.num = n

/-- The register's width in bits (10_state.md R21). -/
def Reg.width : Reg → Nat
  | .cmd => 4
  | .status => 6
  | .inDevice | .decDevice => 24
  | .inAddress | .decAddress => 16
  | .inCommand | .outCksum | .decStart | .decCommand | .decCksum => 8
  | .inBits | .outWord => 64
  | .inBitcount => 7

/-- Host write access (10_state.md R21): `CMD` and the IN registers. -/
def Reg.hostWrites : Reg → Bool
  | .cmd | .inDevice | .inAddress | .inCommand | .inBits | .inBitcount => true
  | .status | .outCksum | .outWord | .decStart | .decDevice | .decAddress | .decCommand
  | .decCksum => false

/-- Host read access (10_state.md R21): every register but `CMD`. -/
def Reg.hostReads : Reg → Bool
  | .cmd => false
  | .status | .inDevice | .inAddress | .inCommand | .inBits | .inBitcount | .outCksum | .outWord
  | .decStart | .decDevice | .decAddress | .decCommand | .decCksum => true

/-- The bits of a number, most significant first, `n` of them. -/
def bitsMsbFirst (n w : Nat) : List Bool :=
  (List.range n).map fun i => w.testBit (n - 1 - i)

/-- A table word as a code. The command words are the rows of 4 bits (8 in whole bytes); the other
rows are waveforms, written as the table writes them with the first unit as the most significant
bit, so that leading zeros of the whole-byte form are no units. DESIGN CHOICE (log entry 15), safe.
A command word with a bit set at or above bit 4 is no code (30_encoding.md R73). -/
def codeOfTableWord (nbits w : Nat) : Option Code :=
  if nbits = 4 ∨ nbits = 8 then
    if w < 16 then some (.command (BitVec.ofNat 4 w)) else none
  else some (.waveform ((bitsMsbFirst nbits w).dropWhile fun b => !b))

/-- The instruction the decoder reads from a row's bits. -/
def decodeTableWord (nbits w : Nat) : Option Instr :=
  match codeOfTableWord nbits w with
  | none => none
  | some k => (decode k).toOption

/-- The input that presents a table word to the block: a host write to `CMD` (30_encoding.md R73), or
a waveform for the symbols (log entry 15). -/
def inputOfTableWord (nbits w : Nat) : Input :=
  match codeOfTableWord nbits w with
  | some (.waveform u) => .symbol u
  | some (.command c) => .access (.write Reg.cmd.num c.toNat)
  | none => .access (.write Reg.cmd.num w)

end Sys2Proof
end

