-- ==== Sys2Proof/Machine/State.lean ====
section
/-! DEFINITION. The state of the codec (10_state.md R20: register file, RX source, TX sink) with the
model's own record of the host beside it, the ways a step can stop, and the reset state. -/

namespace Sys2Proof.Machine

/-- The ways the machine stops with a fault. -/
inductive Fault where
  /-- `Advance(n)` with n > `Size()` (20_memory.md R54, 93_implementation_defined.md I14). Raised by
  the primitive alone; no operation reaches it. Safe (log entry 13). -/
  | advancePastEnd
  deriving DecidableEq, Repr

/-- The accesses the model gives no meaning: the run is refused and stays so (60_exceptions.md R205).
All are safe. -/
inductive Refusal where
  /-- An arm of exec with no meaning yet; no arm answers it. Safe. -/
  | notModelled (mnemonic : String)
  /-- A write to `CMD` of OP 0b101 to 0b111 (30_encoding.md R72). Raised by a host write. Safe. -/
  | reservedCommand (c : BitVec 4)
  /-- A write to `CMD` of PRE = 1 with an OP other than ENCODE's (30_encoding.md R72). Raised by a host
  write. Safe. -/
  | preWithoutEncode (c : BitVec 4)
  /-- An access to register 0xE or 0xF (30_encoding.md R82). Raised by a host read or write. Safe. -/
  | reservedRegister (num : BitVec 4)
  /-- A write to a read-only register (30_encoding.md R73). Raised by a host write. Safe. -/
  | writeReadOnly (r : Reg)
  /-- A read of `CMD` (10_state.md R22). Raised by a host read. Safe. -/
  | readWriteOnly (r : Reg)
  /-- A write with a set bit at or above the register's width (30_encoding.md R73). Raised by a host
  write. Safe. -/
  | dataTooWide (r : Reg) (data : Nat)
  /-- LOAD_RX with `len(s) > RX_CAP` (20_memory.md R61). Raised by the host action. Safe. -/
  | loadRxTooLong
  /-- APPEND_RX with `RX_LEN + len(s) > RX_CAP` (20_memory.md R61). Raised by the host action. Safe. -/
  | appendRxTooLong
  /-- DRAIN_TX(n) with `n > len(TX_SEQ)` (20_memory.md R61). Raised by the host action. Safe. -/
  | drainTxTooMany
  /-- A waveform that spells no symbol (30_encoding.md R77, 93_implementation_defined.md I3). Raised by
  a symbol input, which is the model's own (log entry 3). Safe. -/
  | unknownWaveform (units : List Bool)
  deriving DecidableEq, Repr

/-- What a host read has returned. -/
inductive Reply where
  /-- The value of a register, zero-extended to 64 bits (30_encoding.md R73). -/
  | data (v : BitVec 64)
  /-- The cursor READ_CUR returns (20_memory.md R61). -/
  | cursor (n : Nat)
  deriving DecidableEq, Repr

/-- `STATUS.CODE` (10_state.md R23). The value 7 is reserved and never written. -/
inductive StatusCode where
  | none
  | ok
  | noSyncFound
  | syncLost
  | unrecognizedSymbol
  | checksumMismatch
  | malformedBit
  deriving DecidableEq, Repr

/-- The frame record (10_state.md R31). -/
structure Frame where
  start : BitVec 8
  device : BitVec 24
  address : BitVec 16
  command : BitVec 8
  checksum : BitVec 8
  deriving DecidableEq, Repr

/-- The block's architectural state (10_state.md R20) and, after it, the model's own record of the
host: `pending`, `replies` and `sent` (log entries 1, 5 and 6). -/
structure State where
  /-- `STATUS`: CODE in bits 2:0, OP in bits 5:3 (10_state.md R23). -/
  status : BitVec 6
  /-- `IN_DEVICE` (10_state.md R24). -/
  inDevice : BitVec 24
  /-- `IN_ADDRESS` (10_state.md R24). -/
  inAddress : BitVec 16
  /-- `IN_COMMAND` (10_state.md R24). -/
  inCommand : BitVec 8
  /-- `IN_BITS` (10_state.md R25). -/
  inBits : BitVec 64
  /-- `IN_BITCOUNT` (10_state.md R25). -/
  inBitcount : BitVec 7
  /-- `OUT_CKSUM` (10_state.md R26). -/
  outCksum : BitVec 8
  /-- `OUT_WORD` (10_state.md R26). -/
  outWord : BitVec 64
  /-- `DEC_START` (10_state.md R27). -/
  decStart : BitVec 8
  /-- `DEC_DEVICE` (10_state.md R27). -/
  decDevice : BitVec 24
  /-- `DEC_ADDRESS` (10_state.md R27). -/
  decAddress : BitVec 16
  /-- `DEC_COMMAND` (10_state.md R27). -/
  decCommand : BitVec 8
  /-- `DEC_CKSUM` (10_state.md R27). -/
  decCksum : BitVec 8
  /-- `RX_BUF` (10_state.md R28). -/
  rxBuf : List PulsePair
  /-- `RX_CUR`, a pair index (10_state.md R28). -/
  rxCur : Nat
  /-- `TX_SEQ`, oldest pair first (10_state.md R29). -/
  txSeq : List PulsePair
  /-- `TX_CARRIER` in hertz (10_state.md R29). The spec gives no width: DESIGN CHOICE (log entry 9),
  safe. -/
  txCarrier : Nat
  /-- Model's own: the inputs the host has still to issue, next one first. -/
  pending : List Input
  /-- Model's own: what host reads have returned, oldest first. -/
  replies : List Reply
  /-- Model's own: the pairs DRAIN_TX has handed to the transmit driver, oldest first. -/
  sent : List PulsePair
  deriving DecidableEq, Repr

/-- `RX_LEN` = `len(RX_BUF)` (10_state.md R28). -/
abbrev State.rxLen (s : State) : Nat := s.rxBuf.length

/-- The state after reset (70_reset_and_hazards.md R230, 10_state.md R21). The model's own fields are
empty: DESIGN CHOICE (log entries 1, 5, 6). -/
def State.reset : State where
  status := 0x00#6
  inDevice := 0x000000#24
  inAddress := 0x0000#16
  inCommand := 0x00#8
  inBits := 0x0000000000000000#64
  inBitcount := 0x00#7
  outCksum := 0x00#8
  outWord := 0x0000000000000000#64
  decStart := 0x00#8
  decDevice := 0x000000#24
  decAddress := 0x0000#16
  decCommand := 0x00#8
  decCksum := 0x00#8
  rxBuf := []
  rxCur := 0
  txSeq := []
  txCarrier := 0
  pending := []
  replies := []
  sent := []

end Sys2Proof.Machine
end

