-- ==== Sys2Proof/Machine/Flags.lean ====
section
/-! DEFINITION. The outcome of an operation as the STATUS word (10_state.md R23). The block has no other
condition flags (10_state.md R33). -/

namespace Sys2Proof.Machine

/-- The CODE value (10_state.md R23). -/
def StatusCode.bits : StatusCode → BitVec 3
  | .none => 0#3
  | .ok => 1#3
  | .noSyncFound => 2#3
  | .syncLost => 3#3
  | .unrecognizedSymbol => 4#3
  | .checksumMismatch => 5#3
  | .malformedBit => 6#3

/-- `STATUS` with `STATUS[2:0]` = CODE and `STATUS[5:3]` = OP (10_state.md R23). 00_scope.md R9 and
60_exceptions.md R202 write it `code ++ op`, which under the notation of 00_scope.md R8 would put CODE
in the high bits; R23 and the values of 95_test_vectors.md are followed. DEDUCED (log entry 12),
unsafe. -/
def statusWord (code : StatusCode) (op : Op) : BitVec 6 :=
  op.bits ++ code.bits

/-- `STATUS.CODE` of a status word. -/
def statusCodeBits (w : BitVec 6) : BitVec 3 := w.extractLsb' 0 3

/-- `STATUS.OP` of a status word. -/
def statusOpBits (w : BitVec 6) : BitVec 3 := w.extractLsb' 3 3

end Sys2Proof.Machine
end

