-- ==== Sys2Proof/Machine/Operands.lean ====
section
/-! DEFINITION. The pure functions of the block: frame fields, checksum, packing and validation
(40_frame_codec.md), the timing table (41_pulse_encoder.md R130) and the tolerance comparator
(42_pulse_decoder.md R160 to R162). -/

namespace Sys2Proof.Machine

/-! ### Frame word (30_encoding.md R74, R75) -/

/-- `start(W) = W[63:56]`. -/
def wordStart (w : FrameWord) : BitVec 8 := w.extractLsb' 56 8

/-- `device(W) = W[55:32]`. -/
def wordDevice (w : FrameWord) : BitVec 24 := w.extractLsb' 32 24

/-- `address(W) = W[31:16]`. -/
def wordAddress (w : FrameWord) : BitVec 16 := w.extractLsb' 16 16

/-- `command(W) = W[15:8]`. -/
def wordCommand (w : FrameWord) : BitVec 8 := w.extractLsb' 8 8

/-- `checksum(W) = W[7:0]`. -/
def wordChecksum (w : FrameWord) : BitVec 8 := w.extractLsb' 0 8

/-- Wire bit i of a frame word, `W[63 - i]` (30_encoding.md R76). -/
def wireBit (w : FrameWord) (i : Nat) : Bool := w.getLsbD (63 - i)

/-- `Checksum(d, a, c)`: the six bytes summed in the integers and reduced modulo 256
(40_frame_codec.md R100). -/
def checksum (d : BitVec 24) (a : BitVec 16) (c : BitVec 8) : BitVec 8 :=
  BitVec.ofNat 8
    ((d.extractLsb' 16 8).toNat + (d.extractLsb' 8 8).toNat + (d.extractLsb' 0 8).toNat
      + (a.extractLsb' 8 8).toNat + (a.extractLsb' 0 8).toNat + c.toNat)

/-- `Pack(d, a, c)` (40_frame_codec.md R102). -/
def pack (d : BitVec 24) (a : BitVec 16) (c : BitVec 8) : FrameWord :=
  Config.startCode ++ d ++ a ++ c ++ checksum d a c

/-- `UnpackCore(w)`; none is CHECKSUM_MISMATCH. The start field is not checked (40_frame_codec.md
R104). -/
def unpackCore (w : FrameWord) : Option Frame :=
  if wordChecksum w = checksum (wordDevice w) (wordAddress w) (wordCommand w) then
    some ⟨wordStart w, wordDevice w, wordAddress w, wordCommand w, wordChecksum w⟩
  else none

/-- `FrameEq(f, g)`: device, address and command agree (40_frame_codec.md R106). -/
def frameEq (f g : Frame) : Bool :=
  f.device == g.device && f.address == g.address && f.command == g.command

/-- `(w << 1) | b` (40_frame_codec.md R105, 42_pulse_decoder.md R165). -/
def shiftIn (w : FrameWord) (b : Bool) : FrameWord :=
  (w <<< 1) ||| (BitVec.ofBool b).setWidth 64

/-- The loop of UNPACK from bit `i` with `k` bits still to take: none is MALFORMED_BIT, the source
having run out (40_frame_codec.md R105, 10_state.md R25). -/
def takeBits (bits : BitVec 64) (count : BitVec 7) : (k i : Nat) → FrameWord → Option FrameWord
  | 0, _, w => some w
  | k + 1, i, w =>
    if count.toNat ≤ i then none
    else takeBits bits count k (i + 1) (shiftIn w (bits.getLsbD (63 - i)))

/-! ### Symbols -/

/-- `Timing(sym)`: nominal (mark, space) in microseconds, exact (41_pulse_encoder.md R130). -/
def timing (y : Symbol) : Nat × Nat :=
  (y.units.1 * Config.unitUs, y.units.2 * Config.unitUs)

/-- A nominal pair as an element of `TX_SEQ` (20_memory.md R51). -/
def nominalPair (y : Symbol) : PulsePair :=
  ⟨BitVec.ofNat 32 (timing y).1, BitVec.ofNat 32 (timing y).2⟩

/-- The symbol of a bit value (30_encoding.md R78). -/
def bitSymbol : Bool → Symbol
  | true => .bitOne
  | false => .bitZero

/-- One frame copy on the wire (30_encoding.md R79). -/
def frameCopySymbols (w : FrameWord) : List Symbol :=
  .sync :: ((List.range Config.frameBits).map fun i => bitSymbol (wireBit w i)) ++ [.eom]

/-- One ENCODE burst (30_encoding.md R80). -/
def burstSymbols (pre : Bool) (w : FrameWord) : List Symbol :=
  (if pre then List.replicate Config.preambleLen .preambleBit else [])
    ++ (List.replicate Config.repeats (frameCopySymbols w)).flatten

/-- Air time of a sequence of pairs in microseconds (70_reset_and_hazards.md R240). -/
def airTimeUs : List PulsePair → Nat
  | [] => 0
  | p :: ps => p.mark.toNat + p.space.toNat + airTimeUs ps

/-! ### Tolerance comparator (42_pulse_decoder.md R160 to R162) -/

/-- The lower bound `lo` for a nominal duration, in the integers. -/
def matchLo (tol : Tolerance) (n : Nat) : Nat :=
  match tol.mode with
  | .pct => n * (100 - tol.pct.val) / 100
  | .abs => n - tol.abs.toNat

/-- The upper bound `hi` for a nominal duration, in the integers. -/
def matchHi (tol : Tolerance) (n : Nat) : Nat :=
  match tol.mode with
  | .pct => n * (100 + tol.pct.val) / 100
  | .abs => n + tol.abs.toNat

/-- `Match(x, n)`: both bounds inclusive (42_pulse_decoder.md R160). -/
def matchDur (tol : Tolerance) (x : Duration) (n : Nat) : Bool :=
  decide (matchLo tol n ≤ x.toNat) && decide (x.toNat ≤ matchHi tol n)

/-- `MatchPair(p, sym)`: mark against mark and space against space, and none matches nothing
(42_pulse_decoder.md R161). -/
def matchPair (tol : Tolerance) (p : Option PulsePair) (y : Symbol) : Bool :=
  match p with
  | none => false
  | some q => matchDur tol q.mark (timing y).1 && matchDur tol q.space (timing y).2

/-- `ClassifyBit(p)`: BIT_ONE is tried first (42_pulse_decoder.md R162). -/
def classifyBit (tol : Tolerance) (p : Option PulsePair) : Option Bool :=
  if matchPair tol p .bitOne then some true
  else if matchPair tol p .bitZero then some false
  else none

end Sys2Proof.Machine
end

