-- ==== Sys2Proof/Machine/Ops.lean ====
section
/-! DEFINITION. The named operations over the state: the pulse-interface primitives (20_memory.md R52 to
R56), the two ends of an operation (complete and fail), symbol emission (41_pulse_encoder.md R131), the
decode stages (42_pulse_decoder.md R163 to R167), and register access (30_encoding.md R73). -/

namespace Sys2Proof.Machine

/-- The answer of exec and step. -/
abbrev Out := Host.Outcome State Fault Refusal

/-! ### Pulse-interface primitives -/

/-- `Peek(k)` (20_memory.md R52). -/
def peek (k : Nat) (s : State) : Option PulsePair := s.rxBuf[s.rxCur + k]?

/-- `Size()` = `RX_LEN - RX_CUR` (20_memory.md R53). Beyond the cursor invariant of 10_state.md R28 it
is 0 (DEDUCED, log entry 19, safe). -/
def size (s : State) : Nat := s.rxLen - s.rxCur

/-- `Emit(m, s)` (20_memory.md R55); the sink is unbounded (log entry 18, unsafe). -/
def emit (p : PulsePair) (s : State) : State := { s with txSeq := s.txSeq ++ [p] }

/-- `DeclareNoCarrier()` (20_memory.md R56). -/
def declareNoCarrier (s : State) : State := { s with txCarrier := 0 }

/-! ### The two ends of an operation -/

/-- `complete(code)` (00_scope.md R9, 10_state.md R23). -/
def complete (code : StatusCode) (op : Op) (s : State) : State :=
  { s with status := statusWord code op }

/-- The five DEC registers take a frame (10_state.md R27). -/
def setDec (f : Frame) (s : State) : State :=
  { s with
    decStart := f.start
    decDevice := f.device
    decAddress := f.address
    decCommand := f.command
    decCksum := f.checksum }

/-- `fail(code)`, the failure exit of UNPACK and DECODE and this block's counterpart of taking an
exception: DEC cleared, STATUS written, nothing undone, no control transferred, so that there is no
return from it either (60_exceptions.md R202, R206). -/
def fail (code : StatusCode) (op : Op) (s : State) : State :=
  complete code op (setDec ⟨0#8, 0#24, 0#16, 0#8, 0#8⟩ s)

/-! ### Passes: a stage of an operation goes on, has failed, or has faulted -/

/-- What one stage of DECODE answers. -/
inductive Pass (α : Type) where
  /-- The stage is done and the next one runs. -/
  | cont (a : α) (s : State)
  /-- `fail(code)` ends the operation. -/
  | ended (code : StatusCode) (s : State)
  /-- A primitive's precondition was violated. -/
  | stuck (f : Fault)

/-- Run the next stage if this one goes on. -/
def andThen {α β : Type} (p : Pass α) (k : α → State → Pass β) : Pass β :=
  match p with
  | .cont a s => k a s
  | .ended code s => .ended code s
  | .stuck f => .stuck f

/-- `Advance(n)`; its violated precondition is a fault (20_memory.md R54). DESIGN CHOICE (log entry
13), safe. -/
def advance (n : Nat) (s : State) : Pass Unit :=
  if n ≤ size s then .cont () { s with rxCur := s.rxCur + n } else .stuck .advancePastEnd

/-! ### Symbol emission (41_pulse_encoder.md R131, R133) -/

/-- `EmitSymbol(sym)`. -/
def emitSymbol (y : Symbol) (s : State) : State := emit (nominalPair y) s

/-- `EmitBit(b)`. -/
def emitBit (b : Bool) (s : State) : State := emitSymbol (bitSymbol b) s

/-- `for i in 64-k..63: EmitBit(w[63 - i])`, most significant of the last `k` bits first. -/
def emitBits (w : FrameWord) : Nat → State → State
  | 0, s => s
  | k + 1, s => emitBits w k (emitBit (wireBit w (Config.frameBits - (k + 1))) s)

/-- One frame copy: SYNC, the 64 bits, EOM (30_encoding.md R79). -/
def emitCopy (w : FrameWord) (s : State) : State :=
  emitSymbol .eom (emitBits w Config.frameBits (emitSymbol .sync s))

/-- `n` times the same emission. -/
def emitTimes (f : State → State) : Nat → State → State
  | 0, s => s
  | n + 1, s => emitTimes f n (f s)

/-! ### Decode stages -/

/-- The loop of stage 1, run at most `k` times: `while Peek(0) != NONE and not MatchPair(Peek(0),
SYNC): Advance(1)` (42_pulse_decoder.md R163). -/
def scanLoop (tol : Tolerance) : Nat → State → Pass Unit
  | 0, s => .cont () s
  | k + 1, s =>
    if (peek 0 s).isSome && !matchPair tol (peek 0 s) .sync then
      andThen (advance 1 s) fun _ s' => scanLoop tol k s'
    else .cont () s

/-- Stage 1, sync scan. The loop is bounded by `Size()` (42_pulse_decoder.md R163; DEDUCED, log entry
20, safe). -/
def scanSync (tol : Tolerance) (s : State) : Pass Unit :=
  andThen (scanLoop tol (size s) s) fun _ s' =>
    if peek 0 s' = none then .ended .noSyncFound s' else .cont () s'

/-- Stage 2, consume sync; SYNC_LOST is unreachable but its branch is kept (42_pulse_decoder.md
R164). -/
def consumeSync (tol : Tolerance) (s : State) : Pass Unit :=
  if !matchPair tol (peek 0 s) .sync then .ended .syncLost s else advance 1 s

/-- Stage 3, field read, with `k` bits still to read (42_pulse_decoder.md R165). -/
def readBits (tol : Tolerance) : Nat → FrameWord → State → Pass FrameWord
  | 0, w, s => .cont w s
  | k + 1, w, s =>
    match classifyBit tol (peek 0 s) with
    | none => .ended .unrecognizedSymbol s
    | some b => andThen (advance 1 s) fun _ s' => readBits tol k (shiftIn w b) s'

/-- Stage 4, validation (42_pulse_decoder.md R166). -/
def validate (w : FrameWord) (s : State) : Pass Frame :=
  match unpackCore w with
  | none => .ended .checksumMismatch s
  | some f => .cont f s

/-- Stage 5, optional EOM (42_pulse_decoder.md R167). -/
def consumeEom (tol : Tolerance) (s : State) : Pass Unit :=
  if matchPair tol (peek 0 s) .eom then advance 1 s else .cont () s

/-- The straight line of stages 1 to 5 (42_pulse_decoder.md R168, R171). -/
def decodePass (tol : Tolerance) (s : State) : Pass Frame :=
  andThen (scanSync tol s) fun _ s =>
  andThen (consumeSync tol s) fun _ s =>
  andThen (readBits tol Config.frameBits 0#64 s) fun w s =>
  andThen (validate w s) fun f s =>
  andThen (consumeEom tol s) fun _ s => .cont f s

/-- The end of an operation that returns a frame or a failure. -/
def finishFrame (op : Op) : Pass Frame → Out
  | .cont f s => .next (complete .ok op (setDec f s))
  | .ended code s => .next (fail code op s)
  | .stuck f => .fault f

/-! ### Register access (10_state.md R21, 30_encoding.md R73) -/

/-- A register's value zero-extended to 64 bits; none for `CMD`, which holds none (10_state.md R22). -/
def readReg (r : Reg) (s : State) : Option (BitVec 64) :=
  match r with
  | .cmd => none
  | .status => some (s.status.setWidth 64)
  | .inDevice => some (s.inDevice.setWidth 64)
  | .inAddress => some (s.inAddress.setWidth 64)
  | .inCommand => some (s.inCommand.setWidth 64)
  | .inBits => some s.inBits
  | .inBitcount => some (s.inBitcount.setWidth 64)
  | .outCksum => some (s.outCksum.setWidth 64)
  | .outWord => some s.outWord
  | .decStart => some (s.decStart.setWidth 64)
  | .decDevice => some (s.decDevice.setWidth 64)
  | .decAddress => some (s.decAddress.setWidth 64)
  | .decCommand => some (s.decCommand.setWidth 64)
  | .decCksum => some (s.decCksum.setWidth 64)

/-- A host write's value into a stored register; the block's own registers and `CMD`, which is not
storage, take none (10_state.md R21). -/
def storeReg (r : Reg) (data : Nat) (s : State) : State :=
  match r with
  | .inDevice => { s with inDevice := BitVec.ofNat 24 data }
  | .inAddress => { s with inAddress := BitVec.ofNat 16 data }
  | .inCommand => { s with inCommand := BitVec.ofNat 8 data }
  | .inBits => { s with inBits := BitVec.ofNat 64 data }
  | .inBitcount => { s with inBitcount := BitVec.ofNat 7 data }
  | .cmd | .status | .outCksum | .outWord | .decStart | .decDevice | .decAddress | .decCommand
  | .decCksum => s

/-! ### Host actions (20_memory.md R61) -/

/-- `LOAD_RX(s)` on a buffer of capacity `cap`. -/
def loadRx (cap : Nat) (pairs : List PulsePair) (s : State) : Out :=
  if pairs.length ≤ cap then .next { s with rxBuf := pairs, rxCur := 0 }
  else .refused .loadRxTooLong

/-- `APPEND_RX(s)` on a buffer of capacity `cap`. -/
def appendRx (cap : Nat) (pairs : List PulsePair) (s : State) : Out :=
  if s.rxLen + pairs.length ≤ cap then .next { s with rxBuf := s.rxBuf ++ pairs }
  else .refused .appendRxTooLong

/-- `READ_CUR`: the reply goes to the model's record of the host (log entry 5). -/
def readCur (s : State) : Out := .next { s with replies := s.replies ++ [.cursor s.rxCur] }

/-- `DRAIN_TX(n)`: the drained pairs go to the model's record of the transmit driver (log entry 6). -/
def drainTx (n : Nat) (s : State) : Out :=
  if n ≤ s.txSeq.length then
    .next { s with txSeq := s.txSeq.drop n, sent := s.sent ++ s.txSeq.take n }
  else .refused .drainTxTooMany

/-- A host register read (30_encoding.md R73): the value goes to the model's record of the host (log
entry 5). -/
def hostRead (num : BitVec 4) (s : State) : Out :=
  match regOfNum num with
  | none => .refused (.reservedRegister num)
  | some r =>
    match readReg r s with
    | none => .refused (.readWriteOnly r)
    | some v => .next { s with replies := s.replies ++ [.data v] }

end Sys2Proof.Machine
end

