-- ==== Sys2Proof/Machine/FrameCodec.lean ====
section
/-! DEFINITION. The frame validator's operations CKSUM, PACK and UNPACK (40_frame_codec.md). -/

namespace Sys2Proof.Machine

/-- CKSUM (40_frame_codec.md R101). -/
def execCksum (s : State) : Out :=
  .next (complete .ok .cksum
    { s with outCksum := checksum s.inDevice s.inAddress s.inCommand })

/-- PACK (40_frame_codec.md R103). -/
def execPack (s : State) : Out :=
  .next (complete .ok .pack
    { s with outWord := pack s.inDevice s.inAddress s.inCommand })

/-- UNPACK (40_frame_codec.md R105): MALFORMED_BIT is checked before the checksum
(60_exceptions.md R203). -/
def execUnpack (s : State) : Out :=
  match takeBits s.inBits s.inBitcount Config.frameBits 0 0#64 with
  | none => .next (fail .malformedBit .unpack s)
  | some w =>
    match unpackCore w with
    | none => .next (fail .checksumMismatch .unpack s)
    | some f => .next (complete .ok .unpack (setDec f s))

end Sys2Proof.Machine
end

