-- ==== Sys2Proof/Machine/PulseDecoder.lean ====
section
/-! DEFINITION. The pulse decoder's operation DECODE (42_pulse_decoder.md R168). -/

namespace Sys2Proof.Machine

/-- DECODE at a given tolerance: one pass, no looping back (42_pulse_decoder.md R168, R170, R171). -/
def decodeAt (tol : Tolerance) (s : State) : Out :=
  finishFrame .decode (decodePass tol s)

/-- DECODE at the configured tolerance (00_scope.md R7). -/
def execDecode (s : State) : Out := decodeAt Config.tolerance s

end Sys2Proof.Machine
end

