-- ==== Sys2Proof/Machine/PulseEncoder.lean ====
section
/-! DEFINITION. The pulse encoder: the operation ENCODE (41_pulse_encoder.md R133) and the five symbols,
each of which, run by itself, is EmitSymbol (41_pulse_encoder.md R131; log entry 3). -/

namespace Sys2Proof.Machine

/-- ENCODE with its PRE bit (41_pulse_encoder.md R132, R133). -/
def execEncode (pre : Bool) (s : State) : Out :=
  let w := pack s.inDevice s.inAddress s.inCommand
  let s₁ := declareNoCarrier s
  let s₂ := if pre then emitTimes (emitSymbol .preambleBit) Config.preambleLen s₁ else s₁
  .next (complete .ok .encode (emitTimes (emitCopy w) Config.repeats s₂))

/-- SYNC, emitted (41_pulse_encoder.md R131). Its use in the decoder is `scanSync` and `consumeSync`
(42_pulse_decoder.md R163, R164). -/
def execSync (s : State) : Out := .next (emitSymbol .sync s)

/-- EOM, emitted (41_pulse_encoder.md R131). Its use in the decoder is `consumeEom`
(42_pulse_decoder.md R167). -/
def execEom (s : State) : Out := .next (emitSymbol .eom s)

/-- BIT_ONE, emitted (41_pulse_encoder.md R131). Its use in the decoder is `classifyBit`
(42_pulse_decoder.md R162). -/
def execBitOne (s : State) : Out := .next (emitSymbol .bitOne s)

/-- BIT_ZERO, emitted (41_pulse_encoder.md R131). Its use in the decoder is `classifyBit`
(42_pulse_decoder.md R162). -/
def execBitZero (s : State) : Out := .next (emitSymbol .bitZero s)

/-- PREAMBLE_BIT, emitted (41_pulse_encoder.md R131, R132). The decoder never looks for it
(30_encoding.md R78). -/
def execPreambleBit (s : State) : Out := .next (emitSymbol .preambleBit s)

end Sys2Proof.Machine
end

