-- ==== Sys2Proof/Machine/Dispatch.lean ====
section
/-! DEFINITION. One arm per row of spec/opcode_table.json. -/

namespace Sys2Proof.Machine

/-- The meaning of an instruction. -/
def exec (i : Instr) (s : State) : Host.Outcome State Fault Refusal :=
  match i with
  | .cksum => Sys2Proof.Machine.execCksum s
  | .pack => Sys2Proof.Machine.execPack s
  | .unpack => Sys2Proof.Machine.execUnpack s
  | .encode pre => Sys2Proof.Machine.execEncode pre s
  | .decode => Sys2Proof.Machine.execDecode s
  | .sync => Sys2Proof.Machine.execSync s
  | .eom => Sys2Proof.Machine.execEom s
  | .bitOne => Sys2Proof.Machine.execBitOne s
  | .bitZero => Sys2Proof.Machine.execBitZero s
  | .preambleBit => Sys2Proof.Machine.execPreambleBit s

end Sys2Proof.Machine
end

