-- ==== Sys2Proof/Machine/HostPort.lean ====
section
/-! DEFINITION. The host's side of the block: register writes (a write to `CMD` runs an operation), the
host actions of 20_memory.md R61, and the host-program statements of 30_encoding.md R83 and R84. -/

namespace Sys2Proof.Machine

/-- The refusal of a code the decoder rejects (60_exceptions.md R205). -/
def refusalOf : DecodeReject → Refusal
  | .reservedOp c => .reservedCommand c
  | .preWithoutEncode c => .preWithoutEncode c
  | .unknownWaveform u => .unknownWaveform u

/-- Run the instruction a code spells; a code that spells none is refused (30_encoding.md R72). -/
def runCode (k : Code) (s : State) : Out :=
  match decode k with
  | .ok i => exec i s
  | .error e => .refused (refusalOf e)

/-- A host register write (30_encoding.md R73): access right, then width, then the effect. A write to
`CMD` issues an operation (10_state.md R22); every other write only stores (20_memory.md R60). -/
def hostWrite (num : BitVec 4) (data : Nat) (s : State) : Out :=
  match regOfNum num with
  | none => .refused (.reservedRegister num)
  | some r =>
    if r.hostWrites = false then .refused (.writeReadOnly r)
    else if 2 ^ r.width ≤ data then .refused (.dataTooWide r data)
    else if r = .cmd then runCode (.command (BitVec.ofNat 4 data)) s
    else .next (storeReg r data s)

/-- One host access (30_encoding.md R73, 20_memory.md R61). -/
def perform (a : HostAccess) (s : State) : Out :=
  match a with
  | .write num data => hostWrite num data s
  | .read num => hostRead num s
  | .loadRx pairs => loadRx Config.rxCap pairs s
  | .appendRx pairs => appendRx Config.rxCap pairs s
  | .readCur => readCur s
  | .drainTx n => drainTx n s

/-- One input. -/
def runInput (x : Input) (s : State) : Out :=
  match x with
  | .access a => perform a s
  | .symbol u => runCode (.waveform u) s

/-- Take the next input the host has to issue and run it. With none pending the block is idle and keeps
all of its state (60_exceptions.md R213, 70_reset_and_hazards.md R231). DEDUCED (log entry 2), safe. -/
def stepInput (s : State) : Out :=
  match s.pending with
  | [] => .next s
  | x :: rest => runInput x { s with pending := rest }

/-- The state with a table word as its next input. -/
def fetchNext (s : State) (nbits w : Nat) : State :=
  { s with pending := inputOfTableWord nbits w :: s.pending }

/-- The host write that issues an operation (30_encoding.md R83). -/
def issue (op : Op) (pre : Bool) : HostAccess :=
  .write Reg.cmd.num (commandWord op pre).toNat

/-- The accesses of `SETFRAME d, a, c` (30_encoding.md R84). -/
def setFrameAccesses (d a c : Nat) : List HostAccess :=
  [.write Reg.inDevice.num d, .write Reg.inAddress.num a, .write Reg.inCommand.num c]

/-- The accesses of `SETBITS w[, n]`: `n` defaults to 64, the bits of a frame (30_encoding.md R84). -/
def setBitsAccesses (w : Nat) (n : Option Nat) : List HostAccess :=
  [.write Reg.inBits.num w, .write Reg.inBitcount.num (n.getD Config.frameBits)]

/-- The accesses a statement or macro expands to (30_encoding.md R83, R84). LOOPBACK names the whole of
`TX_SEQ`, so the expansion is taken at a state (DEDUCED, log entry 21, safe). -/
def expandStmt (s : State) : Stmt → List HostAccess
  | .wr r v => [.write r.num v]
  | .rd r => [.read r.num]
  | .cksum => [issue .cksum false]
  | .pack => [issue .pack false]
  | .unpack => [issue .unpack false]
  | .encode pre => [issue .encode pre]
  | .decode => [issue .decode false]
  | .loadRx p => [.loadRx p]
  | .appendRx p => [.appendRx p]
  | .readCur => [.readCur]
  | .drainTx n => [.drainTx n]
  | .setFrame d a c => setFrameAccesses d a c
  | .send d a c pre => setFrameAccesses d a c ++ [issue .encode pre]
  | .setBits w n => setBitsAccesses w n
  | .loopback => [.loadRx s.txSeq, .drainTx s.txSeq.length]

/-- Host accesses one after another, each seeing every effect of those before it; the first refusal or
fault ends the run (20_memory.md R62, 60_exceptions.md R205). -/
def performAll : List HostAccess → State → Out
  | [], s => .next s
  | a :: as, s =>
    match perform a s with
    | .next s' => performAll as s'
    | .fault r => .fault r
    | .refused r => .refused r

/-- A host program: each statement expands at the state it is reached in (30_encoding.md R83, R84). -/
def runStmts : List Stmt → State → Out
  | [], s => .next s
  | p :: ps, s =>
    match performAll (expandStmt s p) s with
    | .next s' => runStmts ps s'
    | .fault r => .fault r
    | .refused r => .refused r

end Sys2Proof.Machine
end

