-- ==== Sys2Proof/Machine/Step.lean ====
section
/-! DEFINITION. One step: one host input, run as one atomic transition (00_scope.md R11, 20_memory.md
R62). -/

namespace Sys2Proof.Machine

/-- One step of the machine. -/
def step (s : State) : Host.Outcome State Fault Refusal := stepInput s

/-- The state whose very next step runs the instruction with these bits (log entry 1). -/
def State.withFetchWord (s : State) (nbits w : Nat) : State := fetchNext s nbits w

end Sys2Proof.Machine
end

