-- ==== Sys2Proof/Safety.lean ====
section
/-! DEFINITION. The terms in which claims speak: the invariants of the state, the separating tolerances
of 42_pulse_decoder.md R174, what stands in the RX source for DECODE, and runs of instructions. -/

namespace Sys2Proof.Machine

/-! ### Invariants of the state -/

/-- The cursor is within the buffer and the buffer within its capacity (10_state.md R28). -/
def RxBounded (s : State) : Prop :=
  s.rxCur ≤ s.rxLen ∧ s.rxLen ≤ Config.rxCap

/-- The (CODE, OP) pairs the rules write (10_state.md R23, 60_exceptions.md R201, R204): NONE only as
0x00 and SYNC_LOST never (42_pulse_decoder.md R164). -/
def legalStatus : List (BitVec 6) :=
  [0x00#6,
    0x01#6, 0x09#6, 0x11#6, 0x19#6, 0x21#6,
    0x22#6, 0x24#6, 0x25#6,
    0x15#6, 0x16#6]

/-- CODE is a failure: 2 to 6 (60_exceptions.md R201). -/
def isFailure (w : BitVec 6) : Bool :=
  decide (2 ≤ (statusCodeBits w).toNat) && decide ((statusCodeBits w).toNat ≤ 6)

/-- STATUS is one the rules write, after a failure the DEC registers are 0 (10_state.md R27), the DEC
registers always hold a frame whose checksum is right (40_frame_codec.md R104), and OUT_WORD is its
reset value or a packed frame (10_state.md R26). -/
structure ResultsConsistent (s : State) : Prop where
  status_legal : s.status ∈ legalStatus
  failure_clears : isFailure s.status = true →
    s.decStart = 0 ∧ s.decDevice = 0 ∧ s.decAddress = 0 ∧ s.decCommand = 0 ∧ s.decCksum = 0
  dec_checksum : s.decCksum = checksum s.decDevice s.decAddress s.decCommand
  out_word : s.outWord = 0 ∨ ∃ d a c, s.outWord = pack d a c

/-- Every pair in the sink or sent is the nominal pair of a symbol (30_encoding.md R77), and the carrier
declaration is 0 (41_pulse_encoder.md R133). -/
structure TxNominal (s : State) : Prop where
  pairs : ∀ p ∈ s.sent ++ s.txSeq, ∃ y : Symbol, p = nominalPair y
  carrier : s.txCarrier = 0

/-! ### Separating tolerances (42_pulse_decoder.md R174) -/

/-- Two closed ranges of durations that do not overlap. -/
abbrev apart (lo hi lo' hi' : Nat) : Prop := hi < lo' ∨ hi' < lo

/-- The match ranges of two symbols do not overlap in the mark or do not overlap in the space. -/
abbrev symbolsApart (tol : Tolerance) (y z : Symbol) : Prop :=
  apart (matchLo tol (timing y).1) (matchHi tol (timing y).1)
      (matchLo tol (timing z).1) (matchHi tol (timing z).1) ∨
    apart (matchLo tol (timing y).2) (matchHi tol (timing y).2)
      (matchLo tol (timing z).2) (matchHi tol (timing z).2)

/-- The tolerance is separating: every pair of distinct symbols among SYNC, EOM, BIT_ONE and BIT_ZERO
is apart. -/
abbrev Separating (tol : Tolerance) : Prop :=
  symbolsApart tol .sync .eom ∧ symbolsApart tol .sync .bitOne ∧ symbolsApart tol .sync .bitZero ∧
    symbolsApart tol .eom .bitOne ∧ symbolsApart tol .eom .bitZero ∧
    symbolsApart tol .bitOne .bitZero

/-! ### What stands in the RX source -/

/-- No pair of `RX_BUF` at an index from `lo` up to, not including, `hi` matches SYNC. -/
abbrev NoSyncBetween (tol : Tolerance) (s : State) (lo hi : Nat) : Prop :=
  ∀ j, j < hi → lo ≤ j → matchPair tol s.rxBuf[j]? .sync = false

/-- `k` is the index of the first pair at or after the cursor that matches SYNC (42_pulse_decoder.md
R169). -/
abbrev FirstSync (tol : Tolerance) (s : State) (k : Nat) : Prop :=
  s.rxCur ≤ k ∧ matchPair tol s.rxBuf[k]? .sync = true ∧ NoSyncBetween tol s s.rxCur k

/-- The 64 pairs after index `k` classify to the wire bits of `w` (42_pulse_decoder.md R165). -/
abbrev BitsAfter (tol : Tolerance) (s : State) (k : Nat) (w : FrameWord) : Prop :=
  ∀ i, i < 64 → classifyBit tol s.rxBuf[k + 1 + i]? = some (wireBit w i)

/-! ### Refused accesses -/

/-- The access spells no operation and no register access (60_exceptions.md R205): an illegal `CMD` word or
one of more than 4 bits, a register that is not there or not open to it, data that does not fit, or a host
action whose precondition (20_memory.md R61) the state does not meet. -/
def SpellsNothing (s : State) : HostAccess → Prop
  | .write num data =>
    (num = 0x0#4 ∧ data ∉ [0x0, 0x1, 0x2, 0x3, 0xB, 0x4]) ∨
      num = 0xE#4 ∨ num = 0xF#4 ∨
      num = 0x1#4 ∨ (0x7#4 ≤ num ∧ num ≤ 0xD#4) ∨
      ∃ w, (num, w) ∈ [(0x2#4, 24), (0x3#4, 16), (0x4#4, 8), (0x5#4, 64), (0x6#4, 7)] ∧ 2 ^ w ≤ data
  | .read num => num = 0x0#4 ∨ num = 0xE#4 ∨ num = 0xF#4
  | .loadRx l => Config.rxCap < l.length
  | .appendRx l => Config.rxCap < s.rxLen + l.length
  | .readCur => False
  | .drainTx n => s.txSeq.length < n

/-! ### Runs -/

/-- The same meaning `n` times, stopping at the first fault or refusal. -/
def repeatOut (f : State → Out) : Nat → State → Out
  | 0, s => .next s
  | n + 1, s =>
    match f s with
    | .next s' => repeatOut f n s'
    | .fault r => .fault r
    | .refused r => .refused r

/-- Instructions one after another, stopping at the first fault or refusal. -/
def execAll : List Instr → State → Out
  | [], s => .next s
  | i :: is, s =>
    match exec i s with
    | .next s' => execAll is s'
    | .fault r => .fault r
    | .refused r => .refused r

/-- The opcode-table row of a symbol. -/
def symbolInstr : Symbol → Instr
  | .sync => .sync
  | .eom => .eom
  | .bitOne => .bitOne
  | .bitZero => .bitZero
  | .preambleBit => .preambleBit

end Sys2Proof.Machine
end

