-- ==== Sys2Proof/WellFormed.lean ====
section
/-! DEFINITION. What is well formed: a code of 30_encoding.md R71 and R77, a register access of R73 and
R82. An instruction has no ill-formed term: its only operand is one bit. -/

namespace Sys2Proof

/-- Every term of Instr is well formed; the operands are the IN registers (30_encoding.md R70). -/
def Instr.wellFormed : Instr → Bool
  | .cksum | .pack | .unpack | .encode _ | .decode => true
  | .sync | .eom | .bitOne | .bitZero | .preambleBit => true

/-- The legal command words (30_encoding.md R71, R72) and the waveforms of 30_encoding.md R77, written
out. -/
def Code.wellFormed : Code → Bool
  | .command c => [0x0#4, 0x1#4, 0x2#4, 0x3#4, 0xB#4, 0x4#4].contains c
  | .waveform u =>
    [[true, true, true, true, true, true, true, true, true, true, true, true, true, true, true, true,
        true, false, false],
      [true, true, false, false, false, false, false, false, false, false, false, false, false, false,
        false, false, false, false, false],
      [true, true, false], [true, false, false]].contains u

/-- The register accesses that are not refused for their form alone: a named register, its access
right, data that fits (30_encoding.md R73, R82), and for `CMD` a legal word (R72). The host actions
have no such check: their preconditions are about the state (20_memory.md R61). -/
def HostAccess.wellFormed : HostAccess → Bool
  | .write num data =>
    match regOfNum num with
    | none => false
    | some r => r.hostWrites && decide (data < 2 ^ r.width) &&
        (r != .cmd || (Code.command (BitVec.ofNat 4 data)).wellFormed)
  | .read num =>
    match regOfNum num with
    | none => false
    | some r => r.hostReads
  | .loadRx _ | .appendRx _ | .readCur | .drainTx _ => true

end Sys2Proof
end

