-- ==== Sys2Proof/Certificates/Slice0/Obligations.lean ====
section
/-! DEFINITION. The statements for the provers. Each docstring names the rule or the log entry the
statement rests on; OBLIGATIONS.json lists them. -/

open Sys2Proof Sys2Proof.Machine

/-! ### Reset, decoding and the step -/

/-- 70_reset_and_hazards.md R230: the block's whole architectural state after reset. -/
def Obligations.ResetStateIsAllZeroAndEmpty : Prop :=
  let s := State.reset
  s.status = 0x00#6 ∧ s.inDevice = 0x000000#24 ∧ s.inAddress = 0x0000#16 ∧ s.inCommand = 0x00#8 ∧
    s.inBits = 0x0000000000000000#64 ∧ s.inBitcount = 0x00#7 ∧ s.outCksum = 0x00#8 ∧
    s.outWord = 0x0000000000000000#64 ∧ s.decStart = 0x00#8 ∧ s.decDevice = 0x000000#24 ∧
    s.decAddress = 0x0000#16 ∧ s.decCommand = 0x00#8 ∧ s.decCksum = 0x00#8 ∧
    s.rxBuf = [] ∧ s.rxLen = 0 ∧ s.rxCur = 0 ∧ s.txSeq = [] ∧ s.txCarrier = 0

/-- 30_encoding.md R71: the operation of each of the sixteen command words. -/
def Obligations.CommandWordsSelectTheirOperation : Prop :=
  decode (.command 0b0000#4) = .ok .cksum ∧
    decode (.command 0b0001#4) = .ok .pack ∧
    decode (.command 0b0010#4) = .ok .unpack ∧
    decode (.command 0b0011#4) = .ok (.encode false) ∧
    decode (.command 0b1011#4) = .ok (.encode true) ∧
    decode (.command 0b0100#4) = .ok .decode ∧
    ∀ c : BitVec 4,
      c ≠ 0b0000#4 → c ≠ 0b0001#4 → c ≠ 0b0010#4 → c ≠ 0b0011#4 → c ≠ 0b1011#4 → c ≠ 0b0100#4 →
        ∃ e, decode (.command c) = .error e

/-- 30_encoding.md R77 and R78: the symbols' waveforms, written out, read as their symbols; the waveform
PREAMBLE_BIT shares with BIT_ZERO reads as BIT_ZERO (log entry 4, the model's reading of R78). -/
def Obligations.SymbolWaveformsDecode : Prop :=
  decode (.waveform [true, true, true, true, true, true, true, true, true, true, true, true, true,
    true, true, true, true, false, false]) = .ok .sync ∧
  decode (.waveform [true, true, false, false, false, false, false, false, false, false, false, false,
    false, false, false, false, false, false, false]) = .ok .eom ∧
  decode (.waveform [true, true, false]) = .ok .bitOne ∧
  decode (.waveform [true, false, false]) = .ok .bitZero ∧
  encode .preambleBit = .waveform [true, false, false]

/-- 30_encoding.md R71, R72 and R77: decode and encode agree both ways, and the decoder takes exactly the
well-formed codes. PREAMBLE_BIT is the one instruction whose code spells another (log entry 4). -/
def Obligations.DecodeAndEncodeAgree : Prop :=
  (∀ i : Instr, i.wellFormed = true → i ≠ .preambleBit → decode (encode i) = .ok i) ∧
    decode (encode .preambleBit) = .ok .bitZero ∧
    (∀ k i, decode k = .ok i → encode i = k) ∧
    ∀ k : Code, (∃ i, decode k = .ok i) ↔ k.wellFormed = true

/-- A step runs the decoded instruction: a host write of a command word (10_state.md R22), and the model's
own symbol input (log entries 1 and 3). What step adds is that the input is no longer pending. -/
def Obligations.StepRunsTheDecodedInstruction : Prop :=
  (∀ (s : State) (rest : List Input) (c : BitVec 4) (i : Instr),
    s.pending = .access (.write 0x0#4 c.toNat) :: rest → decode (.command c) = .ok i →
      step s = exec i { s with pending := rest }) ∧
  ∀ (s : State) (rest : List Input) (u : List Bool) (i : Instr),
    s.pending = .symbol u :: rest → decode (.waveform u) = .ok i →
      step s = exec i { s with pending := rest }

/-- With nothing pending the block is idle and keeps all of its state (60_exceptions.md R213; that an
idle block steps to itself is the model's choice, log entry 2). -/
def Obligations.IdleStepKeepsAllState : Prop :=
  ∀ s : State, s.pending = [] → step s = .next s

/-- 20_memory.md R62: pending accesses run by steps are the accesses performed one after another, each on
the state the earlier ones left, whatever else is pending behind them. -/
def Obligations.StepsFollowTheIssueOrder : Prop :=
  ∀ (l : List HostAccess) (rest : List Input) (s : State),
    core.run l.length { s with pending := l.map Input.access ++ rest } =
      performAll l { s with pending := rest }

/-! ### Register access and host actions -/

/-- 30_encoding.md R72: every reserved or illegal command word is refused. -/
def Obligations.IllegalCommandWordsAreRefused : Prop :=
  ∀ (s : State) (rest : List Input) (c : BitVec 4),
    s.pending = .access (.write 0x0#4 c.toNat) :: rest →
      ((c = 0x5#4 ∨ c = 0x6#4 ∨ c = 0x7#4 ∨ c = 0xD#4 ∨ c = 0xE#4 ∨ c = 0xF#4) →
        step s = .refused (.reservedCommand c)) ∧
      ((c = 0x8#4 ∨ c = 0x9#4 ∨ c = 0xA#4 ∨ c = 0xC#4) →
        step s = .refused (.preWithoutEncode c))

/-- 30_encoding.md R82: any access to 0xE or 0xF is refused. -/
def Obligations.ReservedRegistersRefuseAllAccess : Prop :=
  ∀ (s : State) (rest : List Input) (num : BitVec 4), num = 0xE#4 ∨ num = 0xF#4 →
    (∀ data, s.pending = .access (.write num data) :: rest →
      step s = .refused (.reservedRegister num)) ∧
    (s.pending = .access (.read num) :: rest → step s = .refused (.reservedRegister num))

/-- 30_encoding.md R73, 10_state.md R21 and R22: writes to the read-only registers, reads of CMD and
writes that do not fit are refused (which refusal is named first is the model's choice, log entry 7). -/
def Obligations.IllegalRegisterAccessIsRefused : Prop :=
  ∀ (s : State) (rest : List Input),
    (∀ num data, 0x1#4 = num ∨ (0x7#4 ≤ num ∧ num ≤ 0xD#4) →
      s.pending = .access (.write num data) :: rest →
        ∃ r, regOfNum num = some r ∧ step s = .refused (.writeReadOnly r)) ∧
    (s.pending = .access (.read 0x0#4) :: rest → step s = .refused (.readWriteOnly .cmd)) ∧
    (∀ num w data, (num, w) ∈ [(0x0#4, 4), (0x2#4, 24), (0x3#4, 16), (0x4#4, 8), (0x5#4, 64), (0x6#4, 7)] →
      2 ^ w ≤ data → s.pending = .access (.write num data) :: rest →
        ∃ r, regOfNum num = some r ∧ step s = .refused (.dataTooWide r data))

/-- 30_encoding.md R73 and 20_memory.md R60: a write that fits stores the value and nothing else. -/
def Obligations.HostWriteStoresOneOperand : Prop :=
  ∀ (s : State) (rest : List Input),
    (∀ v : BitVec 24, s.pending = .access (.write 0x2#4 v.toNat) :: rest →
      step s = .next { s with pending := rest, inDevice := v }) ∧
    (∀ v : BitVec 16, s.pending = .access (.write 0x3#4 v.toNat) :: rest →
      step s = .next { s with pending := rest, inAddress := v }) ∧
    (∀ v : BitVec 8, s.pending = .access (.write 0x4#4 v.toNat) :: rest →
      step s = .next { s with pending := rest, inCommand := v }) ∧
    (∀ v : BitVec 64, s.pending = .access (.write 0x5#4 v.toNat) :: rest →
      step s = .next { s with pending := rest, inBits := v }) ∧
    (∀ v : BitVec 7, s.pending = .access (.write 0x6#4 v.toNat) :: rest →
      step s = .next { s with pending := rest, inBitcount := v })

/-- 30_encoding.md R73 and 20_memory.md R60: a read returns the value zero-extended and has no side
effect. Where the value goes is the model's record of the host (log entry 5). -/
def Obligations.HostReadReturnsTheRegister : Prop :=
  ∀ (s : State) (rest : List Input) (num : BitVec 4) (v : Nat),
    (num, v) ∈ [(0x1#4, s.status.toNat), (0x2#4, s.inDevice.toNat), (0x3#4, s.inAddress.toNat),
      (0x4#4, s.inCommand.toNat), (0x5#4, s.inBits.toNat), (0x6#4, s.inBitcount.toNat),
      (0x7#4, s.outCksum.toNat), (0x8#4, s.outWord.toNat), (0x9#4, s.decStart.toNat),
      (0xA#4, s.decDevice.toNat), (0xB#4, s.decAddress.toNat), (0xC#4, s.decCommand.toNat),
      (0xD#4, s.decCksum.toNat)] →
    s.pending = .access (.read num) :: rest →
      step s = .next { s with
        pending := rest, replies := s.replies ++ [.data (BitVec.ofNat 64 v)] }

/-- 20_memory.md R61: the four host actions, with their preconditions. -/
def Obligations.HostActionsFollowTheirRules : Prop :=
  ∀ (s : State) (rest : List Input),
    (∀ l, s.pending = .access (.loadRx l) :: rest →
      step s = if l.length ≤ Config.rxCap then
          .next { s with pending := rest, rxBuf := l, rxCur := 0 }
        else .refused .loadRxTooLong) ∧
    (∀ l, s.pending = .access (.appendRx l) :: rest →
      step s = if s.rxLen + l.length ≤ Config.rxCap then
          .next { s with pending := rest, rxBuf := s.rxBuf ++ l }
        else .refused .appendRxTooLong) ∧
    (s.pending = .access .readCur :: rest →
      step s = .next { s with
        pending := rest, replies := s.replies ++ [.cursor s.rxCur] }) ∧
    (∀ n, s.pending = .access (.drainTx n) :: rest →
      step s = if n ≤ s.txSeq.length then
          .next { s with
            pending := rest, txSeq := s.txSeq.drop n, sent := s.sent ++ s.txSeq.take n }
        else .refused .drainTxTooMany)

/-- 30_encoding.md R84: LOOPBACK leaves in the RX buffer exactly the pairs of the sink and empties the
sink, when they fit. -/
def Obligations.LoopbackMovesTheSinkToTheSource : Prop :=
  ∀ s : State, s.txSeq.length ≤ Config.rxCap →
    performAll (expandStmt s .loopback) s =
      .next { s with rxBuf := s.txSeq, rxCur := 0, txSeq := [], sent := s.sent ++ s.txSeq }

/-- 30_encoding.md R84: SEND is three operand writes and an ENCODE. -/
def Obligations.SendSetsTheFrameAndEncodes : Prop :=
  ∀ (s : State) (d : BitVec 24) (a : BitVec 16) (c : BitVec 8) (pre : Bool),
    performAll (expandStmt s (.send d.toNat a.toNat c.toNat pre)) s =
      exec (.encode pre) { s with inDevice := d, inAddress := a, inCommand := c }

/-- 30_encoding.md R84: SETFRAME writes the three operands, and SETBITS the word and its count, 64 where
the count is left out; nothing else changes. -/
def Obligations.SetFrameAndSetBitsWriteTheirOperands : Prop :=
  ∀ s : State,
    (∀ (d : BitVec 24) (a : BitVec 16) (c : BitVec 8),
      performAll (expandStmt s (.setFrame d.toNat a.toNat c.toNat)) s =
        .next { s with inDevice := d, inAddress := a, inCommand := c }) ∧
    (∀ (w : BitVec 64) (n : BitVec 7),
      performAll (expandStmt s (.setBits w.toNat (some n.toNat))) s =
        .next { s with inBits := w, inBitcount := n }) ∧
    ∀ w : BitVec 64,
      performAll (expandStmt s (.setBits w.toNat none)) s =
        .next { s with inBits := w, inBitcount := 64#7 }

/-- 60_exceptions.md R205: a step is refused exactly on an access that spells nothing, which leaves no next
state; and a run that comes to such an access is refused from there on, whatever is pending behind it and
however many steps more are asked for. -/
def Obligations.AccessesThatSpellNothingRefuseTheRun : Prop :=
  (∀ (s : State) (a : HostAccess) (rest : List Input), s.pending = .access a :: rest →
    (SpellsNothing s a → ∃ r, step s = .refused r) ∧
    (¬ SpellsNothing s a → ∃ t, step s = .next t ∧ t.pending = rest)) ∧
  ∀ (l : List HostAccess) (a : HostAccess) (rest : List Input) (s t : State),
    s.pending = l.map Input.access ++ .access a :: rest → core.run l.length s = .next t →
      SpellsNothing t a → ∃ r, ∀ j, core.run (l.length + 1 + j) s = .refused r

/-! ### Frame validator -/

/-- 40_frame_codec.md R100: the checksum as the sum of six bytes modulo 256. -/
def Obligations.ChecksumIsTheByteSum : Prop :=
  ∀ (d : BitVec 24) (a : BitVec 16) (c : BitVec 8),
    (checksum d a c).toNat =
      (d.toNat / 65536 + d.toNat / 256 % 256 + d.toNat % 256 + a.toNat / 256 + a.toNat % 256
        + c.toNat) % 256

/-- 40_frame_codec.md R102: the packed word, place by place. -/
def Obligations.PackPlacesEveryField : Prop :=
  ∀ (d : BitVec 24) (a : BitVec 16) (c : BitVec 8),
    (pack d a c).toNat =
      0xA3 * 2 ^ 56 + d.toNat * 2 ^ 32 + a.toNat * 2 ^ 16 + c.toNat * 2 ^ 8 + (checksum d a c).toNat

/-- 40_frame_codec.md R101: CKSUM's result, with nothing else changed, and its corner cases. -/
def Obligations.CksumResult : Prop :=
  (∀ s : State, exec .cksum s = .next { s with
    outCksum := checksum s.inDevice s.inAddress s.inCommand, status := 0x01#6 }) ∧
  checksum 0x000000#24 0x0000#16 0x00#8 = 0x00#8 ∧
  checksum 0xFFFFFF#24 0xFFFF#16 0xFF#8 = 0xFA#8 ∧
  checksum 0x000080#24 0x0080#16 0x00#8 = 0x00#8 ∧
  checksum 0x505DE9#24 0x0100#16 0x0B#8 = 0xA2#8

/-- 40_frame_codec.md R103: PACK's result, with nothing else changed, and its corner cases. -/
def Obligations.PackResult : Prop :=
  (∀ s : State, exec .pack s = .next { s with
    outWord := pack s.inDevice s.inAddress s.inCommand, status := 0x09#6 }) ∧
  (∀ d a c, (pack d a c).extractLsb' 56 8 = 0xA3#8) ∧
  pack 0x000000#24 0x0000#16 0x00#8 = 0xA300000000000000#64 ∧
  pack 0xFFFFFF#24 0xFFFF#16 0xFF#8 = 0xA3FFFFFFFFFFFFFA#64 ∧
  pack 0x505DE9#24 0x0100#16 0x0B#8 = 0xA3505DE901000BA2#64

/-- 40_frame_codec.md R105: UNPACK's result in each case, with nothing else changed. -/
def Obligations.UnpackResult : Prop :=
  ∀ s : State,
    (s.inBitcount.toNat < 64 →
      exec .unpack s = .next { s with
        decStart := 0, decDevice := 0, decAddress := 0, decCommand := 0, decCksum := 0,
        status := 0x16#6 }) ∧
    (64 ≤ s.inBitcount.toNat →
      s.inBits.extractLsb' 0 8 ≠
        checksum (s.inBits.extractLsb' 32 24) (s.inBits.extractLsb' 16 16)
          (s.inBits.extractLsb' 8 8) →
      exec .unpack s = .next { s with
        decStart := 0, decDevice := 0, decAddress := 0, decCommand := 0, decCksum := 0,
        status := 0x15#6 }) ∧
    (64 ≤ s.inBitcount.toNat →
      s.inBits.extractLsb' 0 8 =
        checksum (s.inBits.extractLsb' 32 24) (s.inBits.extractLsb' 16 16)
          (s.inBits.extractLsb' 8 8) →
      exec .unpack s = .next { s with
        decStart := s.inBits.extractLsb' 56 8, decDevice := s.inBits.extractLsb' 32 24,
        decAddress := s.inBits.extractLsb' 16 16, decCommand := s.inBits.extractLsb' 8 8,
        decCksum := s.inBits.extractLsb' 0 8, status := 0x11#6 })

/-- 40_frame_codec.md R104 and R108: a word assembled from fields with the computed checksum unpacks to
those fields, whatever its start field; and Pack is injective. -/
def Obligations.UnpackInvertsPack : Prop :=
  (∀ (st : BitVec 8) (d : BitVec 24) (a : BitVec 16) (c : BitVec 8),
    unpackCore (st ++ d ++ a ++ c ++ checksum d a c) = some ⟨st, d, a, c, checksum d a c⟩) ∧
  (∀ d a c, unpackCore (pack d a c) = some ⟨0xA3#8, d, a, c, checksum d a c⟩) ∧
  ∀ d a c d' a' c', pack d a c = pack d' a' c' → d = d' ∧ a = a' ∧ c = c'

/-- 40_frame_codec.md R109: a one-bit change of a summed field always changes the checksum, a one-bit
change of a correct checksum field always gives CHECKSUM_MISMATCH from UNPACK and from DECODE at every
tolerance, and changes of two bits can collide. -/
def Obligations.SingleBitFlipsAreAlwaysCaught : Prop :=
  (∀ d a c k, k < 24 → checksum (d ^^^ (1#24 <<< k)) a c ≠ checksum d a c) ∧
  (∀ d a c k, k < 16 → checksum d (a ^^^ (1#16 <<< k)) c ≠ checksum d a c) ∧
  (∀ d a c k, k < 8 → checksum d a (c ^^^ (1#8 <<< k)) ≠ checksum d a c) ∧
  (∀ (w : FrameWord) (k : Nat) (s : State), (∃ f, unpackCore w = some f) → k < 8 →
    64 ≤ s.inBitcount.toNat → s.inBits = w ^^^ (1#64 <<< k) →
      ∃ t, exec .unpack s = .next t ∧ t.status = 0x15#6) ∧
  (∀ (tol : Tolerance) (w : FrameWord) (k n : Nat) (s : State), (∃ f, unpackCore w = some f) →
    k < 8 → FirstSync tol s n → BitsAfter tol s n (w ^^^ (1#64 <<< k)) →
      ∃ t, decodeAt tol s = .next t ∧ t.status = 0x25#6) ∧
  ∃ d d' a c, d ≠ d' ∧ checksum d a c = checksum d' a c

/-- 40_frame_codec.md R106: frame equality. -/
def Obligations.FrameEqualityIgnoresStartAndChecksum : Prop :=
  ∀ f g : Frame, frameEq f g = true ↔
    f.device = g.device ∧ f.address = g.address ∧ f.command = g.command

/-- 60_exceptions.md R202 with the layout of 10_state.md R23 (log entry 12): the failure exit. -/
def Obligations.FailClearsDecAndReports : Prop :=
  ∀ (code : StatusCode) (op : Op) (s : State),
    fail code op s = { s with
        decStart := 0, decDevice := 0, decAddress := 0, decCommand := 0, decCksum := 0,
        status := (fail code op s).status } ∧
      (fail code op s).status.toNat = op.bits.toNat * 8 + code.bits.toNat

/-! ### Pulse encoder -/

/-- 41_pulse_encoder.md R130: the nominal pairs in microseconds. -/
def Obligations.TimingTableIsNominal : Prop :=
  timing .sync = (5100, 600) ∧ timing .eom = (600, 5100) ∧ timing .bitOne = (600, 300) ∧
    timing .bitZero = (300, 600) ∧ timing .preambleBit = timing .bitZero

/-- 41_pulse_encoder.md R131: EmitSymbol and EmitBit append one nominal pair. -/
def Obligations.EmitSymbolAppendsOnePair : Prop :=
  (∀ (y : Symbol) (s : State), emitSymbol y s = { s with
    txSeq := s.txSeq ++ [⟨BitVec.ofNat 32 (timing y).1, BitVec.ofNat 32 (timing y).2⟩] }) ∧
  (∀ s : State, emitBit true s = emitSymbol .bitOne s) ∧
  ∀ s : State, emitBit false s = emitSymbol .bitZero s

/-- A symbol row run by itself is EmitSymbol (41_pulse_encoder.md R131): one nominal pair is appended and
nothing else changes. That a row runs by itself is the model's choice (log entry 3). -/
def Obligations.SymbolRowsEmitTheirPair : Prop :=
  ∀ s : State,
    exec .sync s = .next { s with txSeq := s.txSeq ++ [⟨5100#32, 600#32⟩] } ∧
    exec .eom s = .next { s with txSeq := s.txSeq ++ [⟨600#32, 5100#32⟩] } ∧
    exec .bitOne s = .next { s with txSeq := s.txSeq ++ [⟨600#32, 300#32⟩] } ∧
    exec .bitZero s = .next { s with txSeq := s.txSeq ++ [⟨300#32, 600#32⟩] } ∧
    exec .preambleBit s = .next { s with txSeq := s.txSeq ++ [⟨300#32, 600#32⟩] }

/-- 41_pulse_encoder.md R133: ENCODE appends the burst of the operand frame, exactly 404 or 396 pairs,
declares no carrier, reports OK and changes nothing else. -/
def Obligations.EncodeAppendsTheBurst : Prop :=
  ∀ (pre : Bool) (s : State),
    let burst := (burstSymbols pre (pack s.inDevice s.inAddress s.inCommand)).map nominalPair
    exec (.encode pre) s = .next { s with
      txSeq := s.txSeq ++ burst, txCarrier := 0, status := 0x19#6 } ∧
    burst.length = if pre then 404 else 396

/-- 30_encoding.md R80: where everything stands in a burst. -/
def Obligations.BurstLayout : Prop :=
  ∀ (pre : Bool) (w : FrameWord),
    let p := if pre then 8 else 0
    (burstSymbols pre w).length = p + 6 * 66 ∧
    (∀ j, j < p → (burstSymbols pre w)[j]? = some .preambleBit) ∧
    ∀ k, k < 6 →
      (burstSymbols pre w)[p + 66 * k]? = some .sync ∧
      (∀ i, i < 64 →
        (burstSymbols pre w)[p + 66 * k + 1 + i]? =
          some (if w.getLsbD (63 - i) then .bitOne else .bitZero)) ∧
      (burstSymbols pre w)[p + 66 * k + 65]? = some .eom

/-- 41_pulse_encoder.md R137 and 70_reset_and_hazards.md R240: the air time of a burst is the same for
every frame. -/
def Obligations.BurstAirTimeIsFixed : Prop :=
  ∀ (pre : Bool) (w : FrameWord),
    airTimeUs ((burstSymbols pre w).map nominalPair) = if pre then 421200 else 414000

/-- ENCODE is its symbols, run one after another between the carrier declaration and the report
(41_pulse_encoder.md R131 and R133; the symbols run by themselves as log entry 3 says). -/
def Obligations.EncodeIsTheRunOfItsSymbols : Prop :=
  ∀ (pre : Bool) (s : State), ∃ t,
    execAll ((burstSymbols pre (pack s.inDevice s.inAddress s.inCommand)).map symbolInstr)
      { s with txCarrier := 0 } = .next t ∧
    exec (.encode pre) s = .next { t with status := 0x19#6 }

/-! ### Pulse decoder -/

/-- 42_pulse_decoder.md R160: the comparator's bounds in both modes, and that a nominal duration always
matches itself. -/
def Obligations.MatchFollowsItsBounds : Prop :=
  (∀ (t : Fin 101) (a : BitVec 32) (x : Duration) (n : Nat),
    matchDur ⟨.pct, t, a⟩ x n = true ↔
      n * (100 - t.val) / 100 ≤ x.toNat ∧ x.toNat ≤ n * (100 + t.val) / 100) ∧
  (∀ (t : Fin 101) (a : BitVec 32) (x : Duration) (n : Nat),
    matchDur ⟨.abs, t, a⟩ x n = true ↔
      max 0 ((n : Int) - a.toNat) ≤ x.toNat ∧ (x.toNat : Int) ≤ n + a.toNat) ∧
  (∀ (tol : Tolerance) (x : Duration), matchDur tol x x.toNat = true) ∧
  ∀ (a : BitVec 32) (x : Duration),
    (matchDur ⟨.pct, 25, a⟩ x 300 = true ↔ 225 ≤ x.toNat ∧ x.toNat ≤ 375) ∧
    (matchDur ⟨.pct, 25, a⟩ x 600 = true ↔ 450 ≤ x.toNat ∧ x.toNat ≤ 750) ∧
    (matchDur ⟨.pct, 25, a⟩ x 5100 = true ↔ 3825 ≤ x.toNat ∧ x.toNat ≤ 6375)

/-- 42_pulse_decoder.md R161 and R162: a missing pair matches nothing, the two components are compared
each with its own nominal duration, and BIT_ONE is preferred. -/
def Obligations.ClassifyBitPrefersBitOne : Prop :=
  (∀ tol y, matchPair tol none y = false) ∧
  (∀ tol p y, matchPair tol (some p) y = true ↔
    matchDur tol p.mark (timing y).1 = true ∧ matchDur tol p.space (timing y).2 = true) ∧
  ∀ tol p,
    (classifyBit tol p = some true ↔ matchPair tol p .bitOne = true) ∧
    (classifyBit tol p = some false ↔
      matchPair tol p .bitOne = false ∧ matchPair tol p .bitZero = true) ∧
    (classifyBit tol p = none ↔
      matchPair tol p .bitOne = false ∧ matchPair tol p .bitZero = false)

/-- 42_pulse_decoder.md R174: the separating tolerances, and that under one of them a pair matches at most
one of the four symbols. -/
def Obligations.SeparatingTolerances : Prop :=
  (∀ (t : Fin 101) (a : BitVec 32), Separating ⟨.pct, t, a⟩ ↔ t.val ≤ 33) ∧
  (∀ (t : Fin 101) (a : BitVec 32), Separating ⟨.abs, t, a⟩ ↔ a.toNat ≤ 149) ∧
  ∀ (tol : Tolerance) (p : Option PulsePair) (y z : Symbol), Separating tol →
    y ≠ .preambleBit → z ≠ .preambleBit →
    matchPair tol p y = true → matchPair tol p z = true → y = z

/-- 42_pulse_decoder.md R163: with no SYNC ahead DECODE ends NO_SYNC_FOUND at the end of the source. -/
def Obligations.DecodeWithoutSync : Prop :=
  ∀ (tol : Tolerance) (s : State), s.rxCur ≤ s.rxLen → NoSyncBetween tol s s.rxCur s.rxLen →
    decodeAt tol s = .next { s with
      rxCur := s.rxLen, decStart := 0, decDevice := 0, decAddress := 0, decCommand := 0,
      decCksum := 0, status := 0x22#6 }

/-- 42_pulse_decoder.md R165: the first pair after the SYNC that is no bit, or the end of the source, ends
DECODE with UNRECOGNIZED_SYMBOL, not consumed. -/
def Obligations.DecodeStopsAtTheFirstBadSymbol : Prop :=
  ∀ (tol : Tolerance) (s : State) (k i : Nat), FirstSync tol s k → i < 64 →
    (∀ j, j < i → (classifyBit tol s.rxBuf[k + 1 + j]?).isSome = true) →
    classifyBit tol s.rxBuf[k + 1 + i]? = none →
    decodeAt tol s = .next { s with
      rxCur := k + 1 + i, decStart := 0, decDevice := 0, decAddress := 0, decCommand := 0,
      decCksum := 0, status := 0x24#6 }

/-- 42_pulse_decoder.md R166: 64 bits whose checksum is wrong end DECODE with CHECKSUM_MISMATCH, the
cursor just past them and the EOM not examined. -/
def Obligations.DecodeRejectsABadChecksum : Prop :=
  ∀ (tol : Tolerance) (s : State) (k : Nat) (w : FrameWord), FirstSync tol s k →
    BitsAfter tol s k w →
    w.extractLsb' 0 8 ≠
      checksum (w.extractLsb' 32 24) (w.extractLsb' 16 16) (w.extractLsb' 8 8) →
    decodeAt tol s = .next { s with
      rxCur := k + 65, decStart := 0, decDevice := 0, decAddress := 0, decCommand := 0,
      decCksum := 0, status := 0x25#6 }

/-- 42_pulse_decoder.md R167 and R168: 64 bits whose checksum is right are returned field by field, and
an EOM that follows is consumed. -/
def Obligations.DecodeReturnsTheFrame : Prop :=
  ∀ (tol : Tolerance) (s : State) (k : Nat) (w : FrameWord), FirstSync tol s k →
    BitsAfter tol s k w →
    w.extractLsb' 0 8 =
      checksum (w.extractLsb' 32 24) (w.extractLsb' 16 16) (w.extractLsb' 8 8) →
    decodeAt tol s = .next { s with
      rxCur := if matchPair tol s.rxBuf[k + 65]? .eom then k + 66 else k + 65
      decStart := w.extractLsb' 56 8, decDevice := w.extractLsb' 32 24,
      decAddress := w.extractLsb' 16 16, decCommand := w.extractLsb' 8 8,
      decCksum := w.extractLsb' 0 8, status := 0x21#6 }

/-- 42_pulse_decoder.md R164, R168, R169: the machine's DECODE, at its configured tolerance, always
completes, never with SYNC_LOST; only RX_CUR, the DEC registers and STATUS can change, and a failure
leaves the DEC registers 0. -/
def Obligations.DecodeAlwaysCompletes : Prop :=
  ∀ s : State, ∃ t, exec .decode s = .next t ∧ decodeAt Config.tolerance s = .next t ∧
    t = { s with
      rxCur := t.rxCur, decStart := t.decStart, decDevice := t.decDevice,
      decAddress := t.decAddress, decCommand := t.decCommand, decCksum := t.decCksum,
      status := t.status } ∧
    s.rxCur ≤ t.rxCur ∧
    (t.status = 0x21#6 ∨ t.status = 0x22#6 ∨ t.status = 0x24#6 ∨ t.status = 0x25#6) ∧
    (t.status ≠ 0x21#6 →
      t.decStart = 0 ∧ t.decDevice = 0 ∧ t.decAddress = 0 ∧ t.decCommand = 0 ∧ t.decCksum = 0)

/-- 42_pulse_decoder.md R176: how many pairs DECODE consumes past the scan. -/
def Obligations.DecodeConsumesBoundedPairs : Prop :=
  ∀ s : State, ∃ t, exec .decode s = .next t ∧
    (t.status = 0x21#6 → ∃ k, FirstSync Config.tolerance s k ∧
      (t.rxCur = k + 65 ∧ matchPair Config.tolerance s.rxBuf[k + 65]? .eom = false ∨
        t.rxCur = k + 66 ∧ matchPair Config.tolerance s.rxBuf[k + 65]? .eom = true)) ∧
    (t.status ≠ 0x21#6 →
      NoSyncBetween Config.tolerance s s.rxCur s.rxLen ∨
      ∃ k, FirstSync Config.tolerance s k ∧ k ≤ t.rxCur ∧ t.rxCur ≤ k + 65)

/-- 42_pulse_decoder.md R173: a DECODE with no SYNC ahead returns NO_SYNC_FOUND, every other one makes
progress past the SYNC, so that repeating it reaches NO_SYNC_FOUND within `RX_LEN - c0 + 1` calls. -/
def Obligations.RepeatedDecodeReachesNoSyncFound : Prop :=
  ∀ s : State, s.rxCur ≤ s.rxLen →
    (∃ t, exec .decode s = .next t ∧
      (NoSyncBetween Config.tolerance s s.rxCur s.rxLen → t.status = 0x22#6) ∧
      (t.status = 0x22#6 ∧ t.rxCur = s.rxLen ∨
        t.status ≠ 0x22#6 ∧ s.rxCur < t.rxCur ∧
          ∃ k, FirstSync Config.tolerance s k ∧ k + 1 ≤ t.rxCur)) ∧
    ∃ n t, 1 ≤ n ∧ n ≤ s.rxLen - s.rxCur + 1 ∧ repeatOut (exec .decode) n s = .next t ∧
      t.status = 0x22#6

/-- 42_pulse_decoder.md R172: pairs ahead of the cursor that match no SYNC are skipped and have no other
effect. -/
def Obligations.GarbageAheadIsSkipped : Prop :=
  ∀ (tol : Tolerance) (s : State) (n : Nat), s.rxCur + n ≤ s.rxLen →
    NoSyncBetween tol s s.rxCur (s.rxCur + n) →
    decodeAt tol s = decodeAt tol { s with rxCur := s.rxCur + n }

/-- 42_pulse_decoder.md R175: at every separating tolerance and every capacity that holds the burst,
ENCODE from an empty sink, LOOPBACK and six DECODEs recover the frame six times, and a seventh finds no
SYNC. -/
def Obligations.EncodeDecodeRoundTrip : Prop :=
  ∀ (tol : Tolerance) (cap : Nat) (s : State) (pre : Bool),
    Separating tol → (if pre then 404 else 396) ≤ cap → s.txSeq = [] →
    ∃ t u v, exec (.encode pre) s = .next t ∧ loadRx cap t.txSeq t = .next u ∧
      drainTx t.txSeq.length u = .next v ∧
      (∀ k, 1 ≤ k → k ≤ 6 → ∃ x, repeatOut (decodeAt tol) k v = .next x ∧
        x.status = 0x21#6 ∧ x.rxCur = (if pre then 8 else 0) + 66 * k ∧
        frameEq ⟨x.decStart, x.decDevice, x.decAddress, x.decCommand, x.decCksum⟩
          ⟨0xA3#8, s.inDevice, s.inAddress, s.inCommand, 0#8⟩ = true ∧
        x.decStart = 0xA3#8 ∧ x.decCksum = checksum s.inDevice s.inAddress s.inCommand) ∧
      ∃ y, repeatOut (decodeAt tol) 7 v = .next y ∧ y.status = 0x22#6

/-! ### Every operation, every step -/

/-- 20_memory.md R57, 10_state.md R24 and 92_eei_decisions.md D33: every row of the table completes from
every state; none writes the IN registers, RX_BUF or the host's record; only DECODE moves the cursor, and
forward; the sink only grows; OUT_CKSUM and OUT_WORD are CKSUM's and PACK's alone. -/
def Obligations.EveryRowCompletesWithinItsFrame : Prop :=
  ∀ (i : Instr) (s : State), ∃ t, exec i s = .next t ∧
    t.inDevice = s.inDevice ∧ t.inAddress = s.inAddress ∧ t.inCommand = s.inCommand ∧
    t.inBits = s.inBits ∧ t.inBitcount = s.inBitcount ∧
    t.rxBuf = s.rxBuf ∧ s.rxCur ≤ t.rxCur ∧ s.txSeq <+: t.txSeq ∧
    t.pending = s.pending ∧ t.replies = s.replies ∧ t.sent = s.sent ∧
    (i ≠ .decode → t.rxCur = s.rxCur) ∧
    (i ≠ .cksum → t.outCksum = s.outCksum) ∧ (i ≠ .pack → t.outWord = s.outWord) ∧
    (i = .cksum ∨ i = .pack ∨ i = .unpack ∨ i = .decode →
      t.txSeq = s.txSeq ∧ t.txCarrier = s.txCarrier) ∧
    (i ≠ .unpack → i ≠ .decode →
      t.decStart = s.decStart ∧ t.decDevice = s.decDevice ∧ t.decAddress = s.decAddress ∧
      t.decCommand = s.decCommand ∧ t.decCksum = s.decCksum)

/-- 10_state.md R23 and 60_exceptions.md R204: every operation reports itself in STATUS.OP, with a CODE
that is neither NONE, SYNC_LOST nor the reserved 7; CKSUM, PACK and ENCODE report OK. -/
def Obligations.EveryOperationReportsItself : Prop :=
  ∀ (op : Op) (pre : Bool) (i : Instr) (s : State),
    decode (.command (commandWord op pre)) = .ok i →
    ∃ t, exec i s = .next t ∧ statusOpBits t.status = op.bits ∧
      statusCodeBits t.status ∈ [1#3, 2#3, 4#3, 5#3, 6#3] ∧
      (op = .cksum ∨ op = .pack ∨ op = .encode → statusCodeBits t.status = 1#3)

/-- 10_state.md R29 and 20_memory.md R57: no row reads the sink; pairs put ahead of it stay ahead of it
and change nothing else. -/
def Obligations.NoRowReadsTheSink : Prop :=
  ∀ (i : Instr) (s : State) (l : List PulsePair) (h : Nat), ∃ t, exec i s = .next t ∧
    exec i { s with txSeq := l ++ s.txSeq, txCarrier := h } = .next { t with
      txSeq := l ++ t.txSeq
      txCarrier := if i = .encode true ∨ i = .encode false then 0 else h }

/-- 10_state.md R20: nothing an operation leaves in STATUS, OUT or DEC changes what a later one does: two
states that agree on the operands, the RX source and the sink agree on every result. -/
def Obligations.ResultsDoNotDependOnEarlierResults : Prop :=
  ∀ (op : Op) (pre : Bool) (i : Instr) (s s' : State),
    decode (.command (commandWord op pre)) = .ok i →
    s'.inDevice = s.inDevice → s'.inAddress = s.inAddress → s'.inCommand = s.inCommand →
    s'.inBits = s.inBits → s'.inBitcount = s.inBitcount → s'.rxBuf = s.rxBuf →
    s'.rxCur = s.rxCur → s'.txSeq = s.txSeq →
    ∃ t t', exec i s = .next t ∧ exec i s' = .next t' ∧ t'.status = t.status ∧
      t'.rxCur = t.rxCur ∧ t'.txSeq = t.txSeq ∧
      (i = .cksum → t'.outCksum = t.outCksum) ∧ (i = .pack → t'.outWord = t.outWord) ∧
      (i = .unpack ∨ i = .decode →
        t'.decStart = t.decStart ∧ t'.decDevice = t.decDevice ∧ t'.decAddress = t.decAddress ∧
        t'.decCommand = t.decCommand ∧ t'.decCksum = t.decCksum)

/-- 20_memory.md R60: repeating CKSUM, PACK or UNPACK with unchanged operands changes nothing. -/
def Obligations.RepeatingAValidatorCommandChangesNothing : Prop :=
  ∀ (i : Instr) (s : State), i = .cksum ∨ i = .pack ∨ i = .unpack →
    ∃ t, exec i s = .next t ∧ exec i t = .next t

/-- 10_state.md R28: every step keeps the cursor within the buffer and the buffer within its capacity. -/
def Obligations.EveryStepKeepsTheRxSourceBounded : Prop :=
  ∀ s t : State, RxBounded s → step s = .next t → RxBounded t

/-- 10_state.md R23, R26, R27 and 40_frame_codec.md R104: every step keeps STATUS, the DEC registers and
OUT_WORD consistent. -/
def Obligations.EveryStepKeepsResultsConsistent : Prop :=
  ∀ s t : State, ResultsConsistent s → step s = .next t → ResultsConsistent t

/-- 30_encoding.md R77 and 41_pulse_encoder.md R133: every step keeps every pair of the sink nominal and
the carrier declaration 0. -/
def Obligations.EveryStepKeepsTheSinkNominal : Prop :=
  ∀ s t : State, TxNominal s → step s = .next t → TxNominal t

/-- 20_memory.md R55, R61 and R62: whatever a step does, the pairs sent and the pairs still in the sink,
read in order, only grow at the end. -/
def Obligations.PairsLeaveInTheOrderEmitted : Prop :=
  ∀ s t : State, step s = .next t → (s.sent ++ s.txSeq) <+: (t.sent ++ t.txSeq)

/-- 70_reset_and_hazards.md R230: the three invariants hold after reset. -/
def Obligations.ResetMeetsTheInvariants : Prop :=
  RxBounded State.reset ∧ ResultsConsistent State.reset ∧ TxNominal State.reset

/-- 20_memory.md R54 and 93_implementation_defined.md I14: no step from any state faults. -/
def Obligations.NoStepFaults : Prop :=
  ∀ (s : State) (f : Fault), step s ≠ .fault f
end

