-- ==== Sys2Proof/Laws/State.lean ====
section
/-! SUPPORT. One lemma per field per update of the state, each true by rfl. -/

namespace Sys2Proof.Machine

/-! ### Emit -/

@[simp] theorem emit_status (p : PulsePair) (s : State) : (emit p s).status = s.status := rfl
@[simp] theorem emit_inDevice (p : PulsePair) (s : State) : (emit p s).inDevice = s.inDevice := rfl
@[simp] theorem emit_inAddress (p : PulsePair) (s : State) : (emit p s).inAddress = s.inAddress := rfl
@[simp] theorem emit_inCommand (p : PulsePair) (s : State) : (emit p s).inCommand = s.inCommand := rfl
@[simp] theorem emit_inBits (p : PulsePair) (s : State) : (emit p s).inBits = s.inBits := rfl
@[simp] theorem emit_inBitcount (p : PulsePair) (s : State) : (emit p s).inBitcount = s.inBitcount := rfl
@[simp] theorem emit_outCksum (p : PulsePair) (s : State) : (emit p s).outCksum = s.outCksum := rfl
@[simp] theorem emit_outWord (p : PulsePair) (s : State) : (emit p s).outWord = s.outWord := rfl
@[simp] theorem emit_decStart (p : PulsePair) (s : State) : (emit p s).decStart = s.decStart := rfl
@[simp] theorem emit_decDevice (p : PulsePair) (s : State) : (emit p s).decDevice = s.decDevice := rfl
@[simp] theorem emit_decAddress (p : PulsePair) (s : State) : (emit p s).decAddress = s.decAddress := rfl
@[simp] theorem emit_decCommand (p : PulsePair) (s : State) : (emit p s).decCommand = s.decCommand := rfl
@[simp] theorem emit_decCksum (p : PulsePair) (s : State) : (emit p s).decCksum = s.decCksum := rfl
@[simp] theorem emit_rxBuf (p : PulsePair) (s : State) : (emit p s).rxBuf = s.rxBuf := rfl
@[simp] theorem emit_rxCur (p : PulsePair) (s : State) : (emit p s).rxCur = s.rxCur := rfl
@[simp] theorem emit_txSeq (p : PulsePair) (s : State) : (emit p s).txSeq = s.txSeq ++ [p] := rfl
@[simp] theorem emit_txCarrier (p : PulsePair) (s : State) : (emit p s).txCarrier = s.txCarrier := rfl
@[simp] theorem emit_pending (p : PulsePair) (s : State) : (emit p s).pending = s.pending := rfl
@[simp] theorem emit_replies (p : PulsePair) (s : State) : (emit p s).replies = s.replies := rfl
@[simp] theorem emit_sent (p : PulsePair) (s : State) : (emit p s).sent = s.sent := rfl

/-! ### DeclareNoCarrier -/

@[simp] theorem declareNoCarrier_status (s : State) : (declareNoCarrier s).status = s.status := rfl
@[simp] theorem declareNoCarrier_inDevice (s : State) : (declareNoCarrier s).inDevice = s.inDevice := rfl
@[simp] theorem declareNoCarrier_inAddress (s : State) : (declareNoCarrier s).inAddress = s.inAddress := rfl
@[simp] theorem declareNoCarrier_inCommand (s : State) : (declareNoCarrier s).inCommand = s.inCommand := rfl
@[simp] theorem declareNoCarrier_inBits (s : State) : (declareNoCarrier s).inBits = s.inBits := rfl
@[simp] theorem declareNoCarrier_inBitcount (s : State) : (declareNoCarrier s).inBitcount = s.inBitcount := rfl
@[simp] theorem declareNoCarrier_outCksum (s : State) : (declareNoCarrier s).outCksum = s.outCksum := rfl
@[simp] theorem declareNoCarrier_outWord (s : State) : (declareNoCarrier s).outWord = s.outWord := rfl
@[simp] theorem declareNoCarrier_decStart (s : State) : (declareNoCarrier s).decStart = s.decStart := rfl
@[simp] theorem declareNoCarrier_decDevice (s : State) : (declareNoCarrier s).decDevice = s.decDevice := rfl
@[simp] theorem declareNoCarrier_decAddress (s : State) : (declareNoCarrier s).decAddress = s.decAddress := rfl
@[simp] theorem declareNoCarrier_decCommand (s : State) : (declareNoCarrier s).decCommand = s.decCommand := rfl
@[simp] theorem declareNoCarrier_decCksum (s : State) : (declareNoCarrier s).decCksum = s.decCksum := rfl
@[simp] theorem declareNoCarrier_rxBuf (s : State) : (declareNoCarrier s).rxBuf = s.rxBuf := rfl
@[simp] theorem declareNoCarrier_rxCur (s : State) : (declareNoCarrier s).rxCur = s.rxCur := rfl
@[simp] theorem declareNoCarrier_txSeq (s : State) : (declareNoCarrier s).txSeq = s.txSeq := rfl
@[simp] theorem declareNoCarrier_txCarrier (s : State) : (declareNoCarrier s).txCarrier = 0 := rfl
@[simp] theorem declareNoCarrier_pending (s : State) : (declareNoCarrier s).pending = s.pending := rfl
@[simp] theorem declareNoCarrier_replies (s : State) : (declareNoCarrier s).replies = s.replies := rfl
@[simp] theorem declareNoCarrier_sent (s : State) : (declareNoCarrier s).sent = s.sent := rfl

/-! ### complete -/

@[simp] theorem complete_status (c : StatusCode) (o : Op) (s : State) : (complete c o s).status = statusWord c o := rfl
@[simp] theorem complete_inDevice (c : StatusCode) (o : Op) (s : State) : (complete c o s).inDevice = s.inDevice := rfl
@[simp] theorem complete_inAddress (c : StatusCode) (o : Op) (s : State) : (complete c o s).inAddress = s.inAddress := rfl
@[simp] theorem complete_inCommand (c : StatusCode) (o : Op) (s : State) : (complete c o s).inCommand = s.inCommand := rfl
@[simp] theorem complete_inBits (c : StatusCode) (o : Op) (s : State) : (complete c o s).inBits = s.inBits := rfl
@[simp] theorem complete_inBitcount (c : StatusCode) (o : Op) (s : State) : (complete c o s).inBitcount = s.inBitcount := rfl
@[simp] theorem complete_outCksum (c : StatusCode) (o : Op) (s : State) : (complete c o s).outCksum = s.outCksum := rfl
@[simp] theorem complete_outWord (c : StatusCode) (o : Op) (s : State) : (complete c o s).outWord = s.outWord := rfl
@[simp] theorem complete_decStart (c : StatusCode) (o : Op) (s : State) : (complete c o s).decStart = s.decStart := rfl
@[simp] theorem complete_decDevice (c : StatusCode) (o : Op) (s : State) : (complete c o s).decDevice = s.decDevice := rfl
@[simp] theorem complete_decAddress (c : StatusCode) (o : Op) (s : State) : (complete c o s).decAddress = s.decAddress := rfl
@[simp] theorem complete_decCommand (c : StatusCode) (o : Op) (s : State) : (complete c o s).decCommand = s.decCommand := rfl
@[simp] theorem complete_decCksum (c : StatusCode) (o : Op) (s : State) : (complete c o s).decCksum = s.decCksum := rfl
@[simp] theorem complete_rxBuf (c : StatusCode) (o : Op) (s : State) : (complete c o s).rxBuf = s.rxBuf := rfl
@[simp] theorem complete_rxCur (c : StatusCode) (o : Op) (s : State) : (complete c o s).rxCur = s.rxCur := rfl
@[simp] theorem complete_txSeq (c : StatusCode) (o : Op) (s : State) : (complete c o s).txSeq = s.txSeq := rfl
@[simp] theorem complete_txCarrier (c : StatusCode) (o : Op) (s : State) : (complete c o s).txCarrier = s.txCarrier := rfl
@[simp] theorem complete_pending (c : StatusCode) (o : Op) (s : State) : (complete c o s).pending = s.pending := rfl
@[simp] theorem complete_replies (c : StatusCode) (o : Op) (s : State) : (complete c o s).replies = s.replies := rfl
@[simp] theorem complete_sent (c : StatusCode) (o : Op) (s : State) : (complete c o s).sent = s.sent := rfl

/-! ### the DEC registers taking a frame -/

@[simp] theorem setDec_status (f : Frame) (s : State) : (setDec f s).status = s.status := rfl
@[simp] theorem setDec_inDevice (f : Frame) (s : State) : (setDec f s).inDevice = s.inDevice := rfl
@[simp] theorem setDec_inAddress (f : Frame) (s : State) : (setDec f s).inAddress = s.inAddress := rfl
@[simp] theorem setDec_inCommand (f : Frame) (s : State) : (setDec f s).inCommand = s.inCommand := rfl
@[simp] theorem setDec_inBits (f : Frame) (s : State) : (setDec f s).inBits = s.inBits := rfl
@[simp] theorem setDec_inBitcount (f : Frame) (s : State) : (setDec f s).inBitcount = s.inBitcount := rfl
@[simp] theorem setDec_outCksum (f : Frame) (s : State) : (setDec f s).outCksum = s.outCksum := rfl
@[simp] theorem setDec_outWord (f : Frame) (s : State) : (setDec f s).outWord = s.outWord := rfl
@[simp] theorem setDec_decStart (f : Frame) (s : State) : (setDec f s).decStart = f.start := rfl
@[simp] theorem setDec_decDevice (f : Frame) (s : State) : (setDec f s).decDevice = f.device := rfl
@[simp] theorem setDec_decAddress (f : Frame) (s : State) : (setDec f s).decAddress = f.address := rfl
@[simp] theorem setDec_decCommand (f : Frame) (s : State) : (setDec f s).decCommand = f.command := rfl
@[simp] theorem setDec_decCksum (f : Frame) (s : State) : (setDec f s).decCksum = f.checksum := rfl
@[simp] theorem setDec_rxBuf (f : Frame) (s : State) : (setDec f s).rxBuf = s.rxBuf := rfl
@[simp] theorem setDec_rxCur (f : Frame) (s : State) : (setDec f s).rxCur = s.rxCur := rfl
@[simp] theorem setDec_txSeq (f : Frame) (s : State) : (setDec f s).txSeq = s.txSeq := rfl
@[simp] theorem setDec_txCarrier (f : Frame) (s : State) : (setDec f s).txCarrier = s.txCarrier := rfl
@[simp] theorem setDec_pending (f : Frame) (s : State) : (setDec f s).pending = s.pending := rfl
@[simp] theorem setDec_replies (f : Frame) (s : State) : (setDec f s).replies = s.replies := rfl
@[simp] theorem setDec_sent (f : Frame) (s : State) : (setDec f s).sent = s.sent := rfl

/-! ### fail -/

@[simp] theorem fail_status (c : StatusCode) (o : Op) (s : State) : (fail c o s).status = statusWord c o := rfl
@[simp] theorem fail_inDevice (c : StatusCode) (o : Op) (s : State) : (fail c o s).inDevice = s.inDevice := rfl
@[simp] theorem fail_inAddress (c : StatusCode) (o : Op) (s : State) : (fail c o s).inAddress = s.inAddress := rfl
@[simp] theorem fail_inCommand (c : StatusCode) (o : Op) (s : State) : (fail c o s).inCommand = s.inCommand := rfl
@[simp] theorem fail_inBits (c : StatusCode) (o : Op) (s : State) : (fail c o s).inBits = s.inBits := rfl
@[simp] theorem fail_inBitcount (c : StatusCode) (o : Op) (s : State) : (fail c o s).inBitcount = s.inBitcount := rfl
@[simp] theorem fail_outCksum (c : StatusCode) (o : Op) (s : State) : (fail c o s).outCksum = s.outCksum := rfl
@[simp] theorem fail_outWord (c : StatusCode) (o : Op) (s : State) : (fail c o s).outWord = s.outWord := rfl
@[simp] theorem fail_decStart (c : StatusCode) (o : Op) (s : State) : (fail c o s).decStart = 0#8 := rfl
@[simp] theorem fail_decDevice (c : StatusCode) (o : Op) (s : State) : (fail c o s).decDevice = 0#24 := rfl
@[simp] theorem fail_decAddress (c : StatusCode) (o : Op) (s : State) : (fail c o s).decAddress = 0#16 := rfl
@[simp] theorem fail_decCommand (c : StatusCode) (o : Op) (s : State) : (fail c o s).decCommand = 0#8 := rfl
@[simp] theorem fail_decCksum (c : StatusCode) (o : Op) (s : State) : (fail c o s).decCksum = 0#8 := rfl
@[simp] theorem fail_rxBuf (c : StatusCode) (o : Op) (s : State) : (fail c o s).rxBuf = s.rxBuf := rfl
@[simp] theorem fail_rxCur (c : StatusCode) (o : Op) (s : State) : (fail c o s).rxCur = s.rxCur := rfl
@[simp] theorem fail_txSeq (c : StatusCode) (o : Op) (s : State) : (fail c o s).txSeq = s.txSeq := rfl
@[simp] theorem fail_txCarrier (c : StatusCode) (o : Op) (s : State) : (fail c o s).txCarrier = s.txCarrier := rfl
@[simp] theorem fail_pending (c : StatusCode) (o : Op) (s : State) : (fail c o s).pending = s.pending := rfl
@[simp] theorem fail_replies (c : StatusCode) (o : Op) (s : State) : (fail c o s).replies = s.replies := rfl
@[simp] theorem fail_sent (c : StatusCode) (o : Op) (s : State) : (fail c o s).sent = s.sent := rfl

/-! ### EmitSymbol -/

@[simp] theorem emitSymbol_status (y : Symbol) (s : State) : (emitSymbol y s).status = s.status := rfl
@[simp] theorem emitSymbol_inDevice (y : Symbol) (s : State) : (emitSymbol y s).inDevice = s.inDevice := rfl
@[simp] theorem emitSymbol_inAddress (y : Symbol) (s : State) : (emitSymbol y s).inAddress = s.inAddress := rfl
@[simp] theorem emitSymbol_inCommand (y : Symbol) (s : State) : (emitSymbol y s).inCommand = s.inCommand := rfl
@[simp] theorem emitSymbol_inBits (y : Symbol) (s : State) : (emitSymbol y s).inBits = s.inBits := rfl
@[simp] theorem emitSymbol_inBitcount (y : Symbol) (s : State) : (emitSymbol y s).inBitcount = s.inBitcount := rfl
@[simp] theorem emitSymbol_outCksum (y : Symbol) (s : State) : (emitSymbol y s).outCksum = s.outCksum := rfl
@[simp] theorem emitSymbol_outWord (y : Symbol) (s : State) : (emitSymbol y s).outWord = s.outWord := rfl
@[simp] theorem emitSymbol_decStart (y : Symbol) (s : State) : (emitSymbol y s).decStart = s.decStart := rfl
@[simp] theorem emitSymbol_decDevice (y : Symbol) (s : State) : (emitSymbol y s).decDevice = s.decDevice := rfl
@[simp] theorem emitSymbol_decAddress (y : Symbol) (s : State) : (emitSymbol y s).decAddress = s.decAddress := rfl
@[simp] theorem emitSymbol_decCommand (y : Symbol) (s : State) : (emitSymbol y s).decCommand = s.decCommand := rfl
@[simp] theorem emitSymbol_decCksum (y : Symbol) (s : State) : (emitSymbol y s).decCksum = s.decCksum := rfl
@[simp] theorem emitSymbol_rxBuf (y : Symbol) (s : State) : (emitSymbol y s).rxBuf = s.rxBuf := rfl
@[simp] theorem emitSymbol_rxCur (y : Symbol) (s : State) : (emitSymbol y s).rxCur = s.rxCur := rfl
@[simp] theorem emitSymbol_txSeq (y : Symbol) (s : State) : (emitSymbol y s).txSeq = s.txSeq ++ [nominalPair y] := rfl
@[simp] theorem emitSymbol_txCarrier (y : Symbol) (s : State) : (emitSymbol y s).txCarrier = s.txCarrier := rfl
@[simp] theorem emitSymbol_pending (y : Symbol) (s : State) : (emitSymbol y s).pending = s.pending := rfl
@[simp] theorem emitSymbol_replies (y : Symbol) (s : State) : (emitSymbol y s).replies = s.replies := rfl
@[simp] theorem emitSymbol_sent (y : Symbol) (s : State) : (emitSymbol y s).sent = s.sent := rfl

end Sys2Proof.Machine
end

