-- ==== Sys2Proof/Laws/Ops.lean ====
section
/-! SUPPORT. One lemma per shared operation that says what it can do: the pulse primitives, the emission
loops, the decode stages, and the bit loops. -/

namespace Sys2Proof.Machine

/-! ### Passes -/

@[simp] theorem andThen_cont {α β : Type} (a : α) (s : State) (k : α → State → Pass β) :
    andThen (.cont a s) k = k a s := rfl

@[simp] theorem andThen_ended {α β : Type} (c : StatusCode) (s : State) (k : α → State → Pass β) :
    andThen (.ended c s) k = .ended c s := rfl

@[simp] theorem andThen_stuck {α β : Type} (f : Fault) (k : α → State → Pass β) :
    andThen (.stuck f) k = .stuck f := rfl

/-! ### Pulse primitives -/

theorem peek_zero (s : State) : peek 0 s = s.rxBuf[s.rxCur]? := rfl

/-- A pair at the cursor makes room for `Advance(1)`. -/
theorem advance_of_isSome {s : State} (h : (s.rxBuf[s.rxCur]?).isSome) :
    advance 1 s = .cont () { s with rxCur := s.rxCur + 1 } := by
  have hlt : s.rxCur < s.rxBuf.length := by simpa using h
  have : 1 ≤ size s := by unfold size State.rxLen; omega
  simp [advance, this]

/-- A pair that matches a symbol is there. -/
theorem isSome_of_matchPair {tol : Tolerance} {p : Option PulsePair} {y : Symbol}
    (h : matchPair tol p y = true) : p.isSome := by
  cases p with
  | none => simp [matchPair] at h
  | some q => rfl

/-- A pair that classifies to a bit is there. -/
theorem isSome_of_classifyBit {tol : Tolerance} {p : Option PulsePair} {b : Bool}
    (h : classifyBit tol p = some b) : p.isSome := by
  cases p with
  | none => simp [classifyBit, matchPair] at h
  | some q => rfl

/-! ### Tolerance comparator -/

/-- The comparator as two inequalities (42_pulse_decoder.md R160). -/
theorem matchDur_iff {tol : Tolerance} {x : Duration} {n : Nat} :
    matchDur tol x n = true ↔ matchLo tol n ≤ x.toNat ∧ x.toNat ≤ matchHi tol n := by
  simp [matchDur]

/-! ### Stage 1 -/

/-- The scan loop only moves the cursor, over pairs that are there and are not SYNC, and stops before
its bound only at the end or on a SYNC. -/
theorem scanLoop_spec (tol : Tolerance) (n : Nat) (s : State) :
    ∃ c, scanLoop tol n s = .cont () { s with rxCur := c } ∧ s.rxCur ≤ c ∧ c ≤ s.rxCur + n ∧
      NoSyncBetween tol s s.rxCur c ∧
      (s.rxCur < c → c ≤ s.rxBuf.length) ∧
      (c < s.rxCur + n → s.rxBuf[c]? = none ∨ matchPair tol s.rxBuf[c]? .sync = true) := by
  induction n generalizing s with
  | zero => exact ⟨s.rxCur, rfl, le_refl _, le_refl _, fun j h h' => by omega, by simp, by simp⟩
  | succ n ih =>
    unfold scanLoop
    by_cases hc : (peek 0 s).isSome && !matchPair tol (peek 0 s) .sync
    · have hs : (s.rxBuf[s.rxCur]?).isSome := by
        rw [peek_zero] at hc; revert hc; cases (s.rxBuf[s.rxCur]?).isSome <;> simp
      have hm : matchPair tol s.rxBuf[s.rxCur]? .sync = false := by
        rw [peek_zero] at hc; revert hc; cases matchPair tol s.rxBuf[s.rxCur]? .sync <;> simp
      have hlt : s.rxCur < s.rxBuf.length := by simpa using hs
      obtain ⟨c, hrun, hle, hub, hno, hlen, hstop⟩ := ih { s with rxCur := s.rxCur + 1 }
      refine ⟨c, ?_, ?_, ?_, ?_, ?_, ?_⟩
      · rw [if_pos hc, advance_of_isSome hs, andThen_cont, hrun]
      · exact Nat.le_of_succ_le hle
      · simp only at hub; omega
      · intro j hj hj'
        by_cases hjc : j = s.rxCur
        · exact hjc ▸ hm
        · exact hno j hj (by simp only; omega)
      · intro _
        by_cases hc' : s.rxCur + 1 < c
        · exact hlen hc'
        · omega
      · intro h; exact hstop (by simp only; omega)
    · refine ⟨s.rxCur, ?_, le_refl _, by omega, fun j h h' => by omega, by simp, ?_⟩
      · rw [if_neg hc]
      · intro _
        rw [peek_zero] at hc
        cases h : s.rxBuf[s.rxCur]? with
        | none => exact .inl rfl
        | some p => right; revert hc; rw [h]; simp

/-- Stage 1 with no SYNC ahead fails at the end of the source. -/
theorem scanSync_none {tol : Tolerance} {s : State}
    (h : NoSyncBetween tol s s.rxCur s.rxLen) :
    scanSync tol s = .ended .noSyncFound { s with rxCur := max s.rxCur s.rxLen } := by
  obtain ⟨c, hrun, hle, hub, hno, hlen, hstop⟩ := scanLoop_spec tol (size s) s
  have hend : s.rxBuf[c]? = none := by
    by_cases hc : c < s.rxCur + size s
    · rcases hstop hc with hn | hm
      · exact hn
      · have hlt : c < s.rxBuf.length := by simpa using isSome_of_matchPair hm
        rw [h c hlt hle] at hm; cases hm
    · have : s.rxBuf.length ≤ c := by unfold size at hc; simp only [State.rxLen] at hc; omega
      simpa using this
  have hc : c = max s.rxCur s.rxLen := by
    have hge : s.rxBuf.length ≤ c := by simpa using hend
    simp only [State.rxLen]
    by_cases hlt : s.rxCur < c
    · have := hlen hlt; omega
    · omega
  unfold scanSync
  rw [hrun, andThen_cont, if_pos (by simpa [peek] using hend), hc]

/-- Stage 1 stops on the first SYNC. -/
theorem scanSync_first {tol : Tolerance} {s : State} {k : Nat} (h : FirstSync tol s k) :
    scanSync tol s = .cont () { s with rxCur := k } := by
  obtain ⟨hk, hm, hno'⟩ := h
  obtain ⟨c, hrun, hle, hub, hno, hlen, hstop⟩ := scanLoop_spec tol (size s) s
  have hkl : k < s.rxBuf.length := by simpa using isSome_of_matchPair hm
  have hck : c ≤ k := by
    by_contra hlt
    have := hno k (by omega) hk
    rw [hm] at this; cases this
  have hc : c = k := by
    by_contra hne
    rcases hstop (by unfold size; simp only [State.rxLen]; omega) with hn | hm'
    · have : s.rxBuf.length ≤ c := by simpa using hn
      omega
    · have := hno' c (by omega) hle
      rw [hm'] at this; cases this
  subst hc
  unfold scanSync
  rw [hrun, andThen_cont, if_neg]
  simp [peek]; omega

/-- From every state either no SYNC lies ahead or there is a first one. -/
theorem noSync_or_firstSync (tol : Tolerance) (s : State) :
    NoSyncBetween tol s s.rxCur s.rxLen ∨ ∃ k, FirstSync tol s k := by
  by_cases h : ∃ k, s.rxCur ≤ k ∧ matchPair tol s.rxBuf[k]? .sync = true
  · right
    classical
    refine ⟨Nat.find h, (Nat.find_spec h).1, (Nat.find_spec h).2, fun j hj hle => ?_⟩
    have := Nat.find_min h hj
    simpa [hle] using this
  · left
    intro j _ hle
    by_contra hc
    exact h ⟨j, hle, by simpa using hc⟩

/-! ### Stage 2 -/

/-- After the scan has stopped on a SYNC, stage 2 consumes it (42_pulse_decoder.md R164). -/
theorem consumeSync_of_match {tol : Tolerance} {s : State}
    (h : matchPair tol s.rxBuf[s.rxCur]? .sync = true) :
    consumeSync tol s = .cont () { s with rxCur := s.rxCur + 1 } := by
  unfold consumeSync
  rw [if_neg (by simp [peek, h])]
  exact advance_of_isSome (isSome_of_matchPair h)

/-! ### Stage 3 -/

/-- Shifting in the next lower bit. -/
theorem shiftIn_ushiftRight (w : FrameWord) (n : Nat) :
    shiftIn (w >>> (n + 1)) (w.getLsbD n) = w >>> n := by
  apply BitVec.eq_of_getLsbD_eq
  intro i hi
  simp only [shiftIn, BitVec.getLsbD_or, BitVec.getLsbD_shiftLeft, BitVec.getLsbD_ushiftRight,
    BitVec.getLsbD_setWidth, BitVec.getLsbD_ofBool]
  by_cases h0 : i = 0
  · subst h0; simp
  · have h1 : n + 1 + (i - 1) = n + i := by omega
    have h2 : ¬ i < 1 := by omega
    simp [h0, h1, hi, h2]

/-- The field read with `n` bits to go, when they are all there. -/
theorem readBits_all {tol : Tolerance} {w : FrameWord} (n : Nat) (s : State)
    (h : ∀ i, i < n → classifyBit tol s.rxBuf[s.rxCur + i]? = some (w.getLsbD (n - 1 - i))) :
    readBits tol n (w >>> n) s = .cont w { s with rxCur := s.rxCur + n } := by
  induction n generalizing s with
  | zero => simp [readBits]
  | succ n ih =>
    have h0 := h 0 (by omega)
    simp only [Nat.add_zero, Nat.add_sub_cancel, Nat.sub_zero] at h0
    unfold readBits
    rw [peek_zero, h0]
    simp only [advance_of_isSome (isSome_of_classifyBit h0), andThen_cont, shiftIn_ushiftRight]
    rw [ih { s with rxCur := s.rxCur + 1 }]
    · simp only [Nat.add_assoc, Nat.add_comm 1 n]
    · intro i hi
      have := h (i + 1) (by omega)
      simp only [Nat.add_sub_cancel] at this
      rw [show s.rxCur + (i + 1) = s.rxCur + 1 + i by omega,
        show n - (i + 1) = n - 1 - i by omega] at this
      exact this

/-- The 64 bits of a word, read in wire order. -/
theorem readBits_word {tol : Tolerance} {w : FrameWord} (s : State)
    (h : ∀ i, i < 64 → classifyBit tol s.rxBuf[s.rxCur + i]? = some (wireBit w i)) :
    readBits tol Config.frameBits 0#64 s = .cont w { s with rxCur := s.rxCur + 64 } := by
  have := readBits_all (tol := tol) (w := w) 64 s (fun i hi => by
    rw [h i hi, wireBit, show 64 - 1 - i = 63 - i by omega])
  rwa [show w >>> 64 = 0#64 from BitVec.ushiftRight_eq_zero (by omega)] at this

/-- The field read stops on the first pair that is no bit (42_pulse_decoder.md R165). -/
theorem readBits_stops {tol : Tolerance} (n i : Nat) (w : FrameWord) (s : State) (hi : i < n)
    (h : ∀ j, j < i → (classifyBit tol s.rxBuf[s.rxCur + j]?).isSome)
    (hn : classifyBit tol s.rxBuf[s.rxCur + i]? = none) :
    readBits tol n w s = .ended .unrecognizedSymbol { s with rxCur := s.rxCur + i } := by
  induction n generalizing s i w with
  | zero => omega
  | succ n ih =>
    unfold readBits
    rw [peek_zero]
    cases i with
    | zero => simp only [Nat.add_zero] at hn; rw [hn]; rfl
    | succ i =>
      obtain ⟨b, hb⟩ := Option.isSome_iff_exists.mp (h 0 (by omega))
      rw [Nat.add_zero] at hb
      rw [hb]
      simp only [advance_of_isSome (isSome_of_classifyBit hb), andThen_cont]
      rw [ih i _ { s with rxCur := s.rxCur + 1 } (by omega)]
      · simp only [show s.rxCur + (i + 1) = s.rxCur + 1 + i by omega]
      · intro j hj
        have := h (j + 1) (by omega)
        rwa [show s.rxCur + (j + 1) = s.rxCur + 1 + j by omega] at this
      · rwa [show s.rxCur + (i + 1) = s.rxCur + 1 + i by omega] at hn

/-- From every state the 64 pairs at the cursor all classify, or there is a first one that does not. -/
theorem bits_or_firstBad (tol : Tolerance) (s : State) :
    (∃ w, ∀ i, i < 64 → classifyBit tol s.rxBuf[s.rxCur + i]? = some (wireBit w i)) ∨
      ∃ i, i < 64 ∧ (∀ j, j < i → (classifyBit tol s.rxBuf[s.rxCur + j]?).isSome) ∧
        classifyBit tol s.rxBuf[s.rxCur + i]? = none := by
  classical
  by_cases h : ∃ i, i < 64 ∧ classifyBit tol s.rxBuf[s.rxCur + i]? = none
  · right
    refine ⟨Nat.find h, (Nat.find_spec h).1, fun j hj => ?_, (Nat.find_spec h).2⟩
    have hm := Nat.find_min h hj
    have : j < 64 := lt_trans hj (Nat.find_spec h).1
    cases hcl : classifyBit tol s.rxBuf[s.rxCur + j]? with
    | none => exact absurd ⟨this, hcl⟩ hm
    | some b => rfl
  · left
    refine ⟨BitVec.ofFnLE (n := 64)
      fun i => (classifyBit tol s.rxBuf[s.rxCur + (63 - i.val)]?).getD false, fun i hi => ?_⟩
    rw [wireBit, BitVec.getLsbD_ofFnLE]
    cases hcl : classifyBit tol s.rxBuf[s.rxCur + i]? with
    | none => exact absurd ⟨i, hi, hcl⟩ h
    | some b =>
      have h1 : 63 - i < 64 := by omega
      have h2 : 63 - (63 - i) = i := by omega
      simp [h1, h2, hcl]

/-! ### Stages 4 and 5 -/

theorem validate_ok {w : FrameWord} {f : Frame} (s : State) (h : unpackCore w = some f) :
    validate w s = .cont f s := by simp [validate, h]

theorem validate_bad {w : FrameWord} (s : State) (h : unpackCore w = none) :
    validate w s = .ended .checksumMismatch s := by simp [validate, h]

/-- Stage 5 consumes a pair exactly when it matches EOM (42_pulse_decoder.md R167). -/
theorem consumeEom_eq (tol : Tolerance) (s : State) :
    consumeEom tol s = .cont () { s with
      rxCur := if matchPair tol s.rxBuf[s.rxCur]? .eom then s.rxCur + 1 else s.rxCur } := by
  unfold consumeEom
  rw [peek_zero]
  by_cases h : matchPair tol s.rxBuf[s.rxCur]? .eom = true
  · rw [if_pos h, if_pos h, advance_of_isSome (isSome_of_matchPair h)]
  · rw [if_neg h, if_neg h]

/-- A frame that validates carries its own fields and the computed checksum (40_frame_codec.md R104). -/
theorem unpackCore_some {w : FrameWord} {f : Frame} (h : unpackCore w = some f) :
    f = ⟨wordStart w, wordDevice w, wordAddress w, wordCommand w, wordChecksum w⟩ ∧
      f.checksum = checksum f.device f.address f.command := by
  unfold unpackCore at h
  split at h
  · rename_i hc
    cases h
    exact ⟨rfl, hc⟩
  · cases h

/-! ### Emission -/

/-- The bits of the last `n` wire positions, in wire order (30_encoding.md R76). -/
theorem emitBits_eq (w : FrameWord) (n : Nat) (s : State) (hn : n ≤ 64) :
    emitBits w n s = { s with
      txSeq := s.txSeq ++ ((List.range n).map fun i =>
        nominalPair (bitSymbol (wireBit w (64 - n + i)))) } := by
  induction n generalizing s with
  | zero => simp [emitBits]
  | succ n ih =>
    have h1 : ∀ i, 64 - n + i = 64 - (n + 1) + (i + 1) := by intro i; omega
    simp [emitBits, Config.frameBits, ih _ (by omega), emitBit, emitSymbol, emit,
      List.range_succ_eq_map, Function.comp_def, h1]

/-- One copy is the nominal pairs of its symbols (30_encoding.md R79). -/
theorem emitCopy_eq (w : FrameWord) (s : State) :
    emitCopy w s = { s with txSeq := s.txSeq ++ (frameCopySymbols w).map nominalPair } := by
  simp [emitCopy, emitBits_eq, Config.frameBits, emitSymbol, emit, frameCopySymbols,
    Function.comp_def]

/-- Repeating an emission that appends a fixed list appends it that many times. -/
theorem emitTimes_eq {f : State → State} {l : List PulsePair}
    (hf : ∀ s, f s = { s with txSeq := s.txSeq ++ l }) (n : Nat) (s : State) :
    emitTimes f n s = { s with txSeq := s.txSeq ++ (List.replicate n l).flatten } := by
  induction n generalizing s with
  | zero => simp [emitTimes]
  | succ n ih => simp [emitTimes, ih, hf, List.replicate_succ]

/-! ### Host actions -/

theorem loadRx_next {cap : Nat} {l : List PulsePair} {s t : State} (h : loadRx cap l s = .next t) :
    l.length ≤ cap ∧ t = { s with rxBuf := l, rxCur := 0 } := by
  unfold loadRx at h
  split at h
  · exact ⟨by assumption, by cases h; rfl⟩
  · cases h

theorem appendRx_next {cap : Nat} {l : List PulsePair} {s t : State}
    (h : appendRx cap l s = .next t) :
    s.rxLen + l.length ≤ cap ∧ t = { s with rxBuf := s.rxBuf ++ l } := by
  unfold appendRx at h
  split at h
  · exact ⟨by assumption, by cases h; rfl⟩
  · cases h

theorem drainTx_next {n : Nat} {s t : State} (h : drainTx n s = .next t) :
    n ≤ s.txSeq.length ∧ t = { s with txSeq := s.txSeq.drop n, sent := s.sent ++ s.txSeq.take n } := by
  unfold drainTx at h
  split at h
  · exact ⟨by assumption, by cases h; rfl⟩
  · cases h

theorem readCur_next {s t : State} (h : readCur s = .next t) :
    t = { s with replies := s.replies ++ [.cursor s.rxCur] } := by
  cases h; rfl

theorem hostRead_next {num : BitVec 4} {s t : State} (h : hostRead num s = .next t) :
    ∃ r v, regOfNum num = some r ∧ readReg r s = some v ∧
      t = { s with replies := s.replies ++ [.data v] } := by
  unfold hostRead at h
  split at h
  · cases h
  · rename_i r hr
    split at h
    · cases h
    · rename_i v hv
      exact ⟨r, v, hr, hv, by cases h; rfl⟩

/-- A code runs only the instruction it decodes to. -/
theorem runCode_next {k : Code} {s t : State} (h : runCode k s = .next t) :
    ∃ i, decode k = .ok i ∧ exec i s = .next t := by
  unfold runCode at h
  split at h
  · rename_i i hi
    exact ⟨i, hi, h⟩
  · cases h

/-- An accepted host write is a command that runs, or stores into an IN register (30_encoding.md
R73). -/
theorem hostWrite_next {num : BitVec 4} {data : Nat} {s t : State}
    (h : hostWrite num data s = .next t) :
    ∃ r, regOfNum num = some r ∧ r.hostWrites = true ∧ data < 2 ^ r.width ∧
      ((r = .cmd ∧ ∃ i, decode (.command (BitVec.ofNat 4 data)) = .ok i ∧ exec i s = .next t) ∨
        (r ≠ .cmd ∧ t = storeReg r data s)) := by
  unfold hostWrite at h
  split at h
  · cases h
  · rename_i r hr
    split at h
    · cases h
    · rename_i hw
      split at h
      · cases h
      · rename_i hd
        refine ⟨r, hr, by simpa using hw, by omega, ?_⟩
        split at h
        · rename_i hc; exact .inl ⟨hc, runCode_next h⟩
        · rename_i hc; exact .inr ⟨hc, by cases h; rfl⟩

/-- A write that fits a writable register other than CMD is accepted and stores (30_encoding.md R73). -/
theorem hostWrite_stores {num : BitVec 4} {r : Reg} {data : Nat} (s : State)
    (hr : regOfNum num = some r) (hw : r.hostWrites = true) (hc : r ≠ .cmd)
    (hd : data < 2 ^ r.width) : hostWrite num data s = .next (storeReg r data s) := by
  simp [hostWrite, hr, hw, hc, hd]

/-- SETBITS with a count writes it (30_encoding.md R84). -/
@[simp] theorem setBitsAccesses_some (w n : Nat) :
    setBitsAccesses w (some n) = [.write Reg.inBits.num w, .write Reg.inBitcount.num n] := rfl

/-- SETBITS without a count writes 64 (30_encoding.md R84). -/
@[simp] theorem setBitsAccesses_none (w : Nat) :
    setBitsAccesses w none = [.write Reg.inBits.num w, .write Reg.inBitcount.num 64] := rfl

/-- A step is idle, or runs the next input on the state without it. -/
theorem step_cases (s : State) :
    (s.pending = [] ∧ step s = .next s) ∨
      ∃ x rest, s.pending = x :: rest ∧ step s = runInput x { s with pending := rest } := by
  unfold step stepInput
  cases h : s.pending with
  | nil => exact .inl ⟨rfl, rfl⟩
  | cons x rest => exact .inr ⟨x, rest, rfl, rfl⟩

end Sys2Proof.Machine
end

