-- ==== Sys2Proof/Laws/PerInstr.lean ====
section
/-! SUPPORT. Statements about every instruction as syntax, one lemma per constructor. -/

/-- The encoder writes only well-formed codes (30_encoding.md R71, R77). -/
def Sys2Proof.Laws.EncodesWellFormed.Statement (i : Sys2Proof.Instr) : Prop :=
  i.wellFormed = true ∧ (Sys2Proof.encode i).wellFormed = true

theorem Sys2Proof.Laws.EncodesWellFormed.cksum :
    Sys2Proof.Laws.EncodesWellFormed.Statement .cksum := by
  unfold Sys2Proof.Laws.EncodesWellFormed.Statement; decide

theorem Sys2Proof.Laws.EncodesWellFormed.pack :
    Sys2Proof.Laws.EncodesWellFormed.Statement .pack := by
  unfold Sys2Proof.Laws.EncodesWellFormed.Statement; decide

theorem Sys2Proof.Laws.EncodesWellFormed.unpack :
    Sys2Proof.Laws.EncodesWellFormed.Statement .unpack := by
  unfold Sys2Proof.Laws.EncodesWellFormed.Statement; decide

theorem Sys2Proof.Laws.EncodesWellFormed.encode (pre : Bool) :
    Sys2Proof.Laws.EncodesWellFormed.Statement (.encode pre) := by
  unfold Sys2Proof.Laws.EncodesWellFormed.Statement; cases pre <;> decide

theorem Sys2Proof.Laws.EncodesWellFormed.decode :
    Sys2Proof.Laws.EncodesWellFormed.Statement .decode := by
  unfold Sys2Proof.Laws.EncodesWellFormed.Statement; decide

theorem Sys2Proof.Laws.EncodesWellFormed.sync :
    Sys2Proof.Laws.EncodesWellFormed.Statement .sync := by
  unfold Sys2Proof.Laws.EncodesWellFormed.Statement; decide

theorem Sys2Proof.Laws.EncodesWellFormed.eom :
    Sys2Proof.Laws.EncodesWellFormed.Statement .eom := by
  unfold Sys2Proof.Laws.EncodesWellFormed.Statement; decide

theorem Sys2Proof.Laws.EncodesWellFormed.bitOne :
    Sys2Proof.Laws.EncodesWellFormed.Statement .bitOne := by
  unfold Sys2Proof.Laws.EncodesWellFormed.Statement; decide

theorem Sys2Proof.Laws.EncodesWellFormed.bitZero :
    Sys2Proof.Laws.EncodesWellFormed.Statement .bitZero := by
  unfold Sys2Proof.Laws.EncodesWellFormed.Statement; decide

theorem Sys2Proof.Laws.EncodesWellFormed.preambleBit :
    Sys2Proof.Laws.EncodesWellFormed.Statement .preambleBit := by
  unfold Sys2Proof.Laws.EncodesWellFormed.Statement; decide
end

