-- ==== Sys2Proof/Tests/Slice0.lean ====
section
/-! SUPPORT. Tests of the model. Expected values come from spec/95_test_vectors.md (the vector's name in
the docstring) or from the encoding tables; test_witness_ theorems show that the hypotheses of a
statement can be met together. -/

namespace Sys2Proof.Tests

open Sys2Proof Sys2Proof.Machine

/-! ### Helpers -/

/-- The answer is a next state with this property. -/
def nextIs (o : Out) (p : State → Bool) : Bool :=
  match o with
  | .next s => p s
  | .fault _ => false
  | .refused _ => false

/-- The tolerance of the test vectors. -/
def pct (t : Fin 101) : Tolerance := ⟨.pct, t, 0⟩

/-- A pulse pair in microseconds. -/
def pp (m s : Nat) : PulsePair := ⟨BitVec.ofNat 32 m, BitVec.ofNat 32 s⟩

/-- `bits(W)` of 95_test_vectors.md, with the given pairs for 1 and 0. -/
def bitPairs (one zero : PulsePair) (w : FrameWord) : List PulsePair :=
  (List.range 64).map fun i => if w.getLsbD (63 - i) then one else zero

/-- The nominal `bits(W)`. -/
def nominalBits (w : FrameWord) : List PulsePair := bitPairs (pp 600 300) (pp 300 600) w

/-- Reset with the operand frame set. -/
def withFrame (d : BitVec 24) (a : BitVec 16) (c : BitVec 8) : State :=
  { State.reset with inDevice := d, inAddress := a, inCommand := c }

/-- Reset with UNPACK's bit source set. -/
def withBits (w : BitVec 64) (n : BitVec 7) : State :=
  { State.reset with inBits := w, inBitcount := n }

/-- Reset with an RX source. -/
def withRx (l : List PulsePair) (c : Nat) : State :=
  { State.reset with rxBuf := l, rxCur := c }

/-- Reset with one input pending. -/
def withInput (x : Input) : State := { State.reset with pending := [x] }

/-- The DEC registers as one tuple. -/
def decOf (s : State) : BitVec 8 × BitVec 24 × BitVec 16 × BitVec 8 × BitVec 8 :=
  (s.decStart, s.decDevice, s.decAddress, s.decCommand, s.decCksum)

/-! ### Decoding: words written out from 30_encoding.md R71 and R77 -/

theorem test_decode_cksum : decode (.command 0b0000#4) = .ok .cksum := rfl
theorem test_decode_pack : decode (.command 0b0001#4) = .ok .pack := rfl
theorem test_decode_unpack : decode (.command 0b0010#4) = .ok .unpack := rfl
theorem test_decode_encode : decode (.command 0b0011#4) = .ok (.encode false) := rfl
theorem test_decode_encode_pre : decode (.command 0b1011#4) = .ok (.encode true) := rfl
theorem test_decode_decode : decode (.command 0b0100#4) = .ok .decode := rfl
theorem test_decode_sync : decode (.waveform [true, true, true, true, true, true, true, true, true,
    true, true, true, true, true, true, true, true, false, false]) = .ok .sync := rfl
theorem test_decode_eom : decode (.waveform [true, true, false, false, false, false, false, false,
    false, false, false, false, false, false, false, false, false, false, false]) = .ok .eom := rfl
theorem test_decode_bitOne : decode (.waveform [true, true, false]) = .ok .bitOne := rfl
theorem test_decode_bitZero : decode (.waveform [true, false, false]) = .ok .bitZero := rfl
/-- PREAMBLE_BIT's waveform `100` is BIT_ZERO's (30_encoding.md R77). -/
theorem test_encode_preambleBit : encode .preambleBit = .waveform [true, false, false] := rfl

/-- The table's numbering: command rows of 4 bits in one byte, the 19-unit waveforms in three. -/
theorem test_decodeTableWord :
    decodeTableWord 8 0x0 = some .cksum ∧ decodeTableWord 8 0x1 = some .pack ∧
    decodeTableWord 8 0x2 = some .unpack ∧ decodeTableWord 8 0x3 = some (.encode false) ∧
    decodeTableWord 8 0xB = some (.encode true) ∧ decodeTableWord 8 0x4 = some .decode ∧
    decodeTableWord 24 0x7FFFC = some .sync ∧ decodeTableWord 24 0x60000 = some .eom ∧
    decodeTableWord 3 0x6 = some .bitOne ∧ decodeTableWord 3 0x4 = some .bitZero ∧
    decodeTableWord 8 0x5 = none ∧ decodeTableWord 8 0x8 = none ∧ decodeTableWord 8 0x14 = none := by
  decide

/-- The next step runs the word placed. -/
theorem test_withFetchWord :
    step (State.reset.withFetchWord 8 0x1) = exec .pack State.reset ∧
    step (State.reset.withFetchWord 8 0xB) = exec (.encode true) State.reset ∧
    step (State.reset.withFetchWord 8 0x4) = exec .decode State.reset ∧
    step (State.reset.withFetchWord 24 0x7FFFC) = exec .sync State.reset ∧
    step (State.reset.withFetchWord 3 0x6) = exec .bitOne State.reset :=
  ⟨rfl, rfl, rfl, rfl, rfl⟩

/-! ### Well-formedness smoke: each check refuses an ill-formed term -/

theorem test_wf_reserved_op : (Code.command 0x5#4).wellFormed = false := by decide
theorem test_wf_pre_without_encode : (Code.command 0x8#4).wellFormed = false := by decide
theorem test_wf_unknown_waveform : (Code.waveform [true, false]).wellFormed = false := by decide
theorem test_wf_write_reserved : (HostAccess.write 0xE#4 0).wellFormed = false := by decide
theorem test_wf_write_read_only : (HostAccess.write 0x1#4 1).wellFormed = false := by decide
theorem test_wf_write_too_wide : (HostAccess.write 0x2#4 0x1000000).wellFormed = false := by decide
theorem test_wf_write_illegal_command : (HostAccess.write 0x0#4 0x8).wellFormed = false := by decide
theorem test_wf_read_cmd : (HostAccess.read 0x0#4).wellFormed = false := by decide
theorem test_wf_read_reserved : (HostAccess.read 0xF#4).wellFormed = false := by decide
theorem test_wf_accepts : (HostAccess.write 0x0#4 0x3).wellFormed = true := by decide

/-! ### Instructions -/

/-- V-CK-8. -/
theorem test_cksum_v8 : nextIs (exec .cksum (withFrame 0x123456#24 0xABCD#16 0xEF#8)) fun s =>
    s.outCksum == 0x03#8 && s.status == 0x01#6 := by decide

/-- V-CK-3: a sum of exactly 256. -/
theorem test_cksum_v3 : nextIs (exec .cksum (withFrame 0x000080#24 0x0080#16 0x00#8)) fun s =>
    s.outCksum == 0x00#8 := by decide

/-- V-PK-5. -/
theorem test_pack_v5 : nextIs (exec .pack (withFrame 0x123456#24 0xABCD#16 0xEF#8)) fun s =>
    s.outWord == 0xA3123456ABCDEF03#64 && s.status == 0x09#6 && s.outCksum == 0#8 := by decide

/-- V-UP-6: the start code is not checked. -/
theorem test_unpack_v6 : nextIs (exec .unpack (withBits 0x00505DE901000BA2#64 64#7)) fun s =>
    decOf s == (0x00#8, 0x505DE9#24, 0x0100#16, 0x0B#8, 0xA2#8) && s.status == 0x11#6 := by
  decide +kernel

/-- V-UP-4: MALFORMED_BIT before CHECKSUM_MISMATCH. -/
theorem test_unpack_v4 : nextIs (exec .unpack (withBits 0xA3505DE901000BA3#64 10#7)) fun s =>
    decOf s == (0#8, 0#24, 0#16, 0#8, 0#8) && s.status == 0x16#6 := by decide +kernel

/-- V-EN-2: 404 pairs, the first SYNC at 8, then the start code's first bits. -/
theorem test_encode_v2 : nextIs (exec (.encode true) (withFrame 0x505DE9#24 0x0100#16 0x0B#8)) fun s =>
    s.txSeq.length == 404 && s.txSeq.take 12 == List.replicate 8 (pp 300 600) ++
      [pp 5100 600, pp 600 300, pp 300 600, pp 600 300] && s.status == 0x19#6 := by decide +kernel

/-- V-EN-1: one copy, bit for bit. -/
theorem test_encode_v1 : nextIs (exec (.encode false) (withFrame 0x505DE9#24 0x0100#16 0x0B#8)) fun s =>
    s.txSeq.take 67 == [pp 5100 600] ++ nominalBits 0xA3505DE901000BA2#64 ++
      [pp 600 5100, pp 5100 600] := by decide +kernel

/-- V-DE-12: noisy pairs. -/
theorem test_decode_v12 : nextIs (decodeAt (pct 25) (withRx ([pp 5000 650] ++
      bitPairs (pp 580 320) (pp 320 580) 0xA3505DE901000BA2#64 ++ [pp 650 5000]) 0)) fun s =>
    s.rxCur == 66 && s.status == 0x21#6 &&
      decOf s == (0xA3#8, 0x505DE9#24, 0x0100#16, 0x0B#8, 0xA2#8) := by decide +kernel

/-- V-DE-8: a SYNC among the bits stops the field read on it. -/
theorem test_decode_v8 : nextIs (decodeAt (pct 25) (withRx (([pp 5100 600] ++
      nominalBits 0xA3505DE901000BA2#64).set 11 (pp 5100 600)) 0)) fun s =>
    s.rxCur == 11 && s.status == 0x24#6 := by decide +kernel

theorem test_sync_emits : nextIs (exec .sync State.reset) fun s =>
    s.txSeq == [pp 5100 600] && s.status == 0#6 := by decide
theorem test_eom_emits : nextIs (exec .eom State.reset) fun s => s.txSeq == [pp 600 5100] := by decide
theorem test_bitOne_emits : nextIs (exec .bitOne State.reset) fun s => s.txSeq == [pp 600 300] := by
  decide
theorem test_bitZero_emits : nextIs (exec .bitZero State.reset) fun s => s.txSeq == [pp 300 600] := by
  decide
theorem test_preambleBit_emits : nextIs (exec .preambleBit State.reset) fun s =>
    s.txSeq == [pp 300 600] := by decide

/-! ### Comparator (95_test_vectors.md section 3) -/

/-- V-M-1 to V-M-4, V-M-9, V-M-10, V-M-13. -/
theorem test_match :
    matchDur (pct 25) 225#32 300 = true ∧ matchDur (pct 25) 224#32 300 = false ∧
    matchDur (pct 25) 375#32 300 = true ∧ matchDur (pct 25) 376#32 300 = false ∧
    matchDur ⟨.abs, 0, 100#32⟩ 200#32 300 = true ∧ matchDur ⟨.abs, 0, 100#32⟩ 199#32 300 = false ∧
    matchDur (pct 100) 601#32 300 = false := by decide

/-- V-CL-2 to V-CL-7. -/
theorem test_classify :
    classifyBit (pct 25) (some (pp 300 600)) = some false ∧
    classifyBit (pct 34) (some (pp 400 400)) = some true ∧
    classifyBit (pct 33) (some (pp 400 400)) = none ∧
    classifyBit (pct 34) (some (pp 450 450)) = none ∧
    classifyBit (pct 25) (some (pp 300 300)) = none ∧
    classifyBit ⟨.abs, 0, 150#32⟩ (some (pp 450 450)) = some true := by decide

/-! ### Host accesses -/

/-- V-RF-1 to V-RF-5. -/
theorem test_refusals :
    step (withInput (.access (.write 0x0#4 0x5))) = .refused (.reservedCommand 0x5#4) ∧
    step (withInput (.access (.write 0x0#4 0x8))) = .refused (.preWithoutEncode 0x8#4) ∧
    step (withInput (.access (.write 0x2#4 0x1000000))) = .refused (.dataTooWide .inDevice 0x1000000) ∧
    step (withInput (.access (.write 0x1#4 0x01))) = .refused (.writeReadOnly .status) ∧
    step (withInput (.access (.read 0xE#4))) = .refused (.reservedRegister 0xE#4) :=
  ⟨rfl, rfl, rfl, rfl, rfl⟩

/-- P1 up to PACK, as statements. -/
theorem test_program_p1 : nextIs (runStmts [.setFrame 0x505DE9 0x0100 0x0B, .cksum, .pack, .rd .outCksum]
    State.reset) fun s => s.outCksum == 0xA2#8 && s.outWord == 0xA3505DE901000BA2#64 &&
      s.replies == [.data 0xA2#64] := by decide +kernel

/-! ### Witnesses: the hypotheses of each statement can be met together -/

theorem test_witness_CommandWordsSelectTheirOperation :
    ∀ c ∈ [0x5#4, 0xA#4, 0xC#4, 0xF#4], c ≠ 0b0000#4 ∧ c ≠ 0b0001#4 ∧ c ≠ 0b0010#4 ∧ c ≠ 0b0011#4 ∧
      c ≠ 0b1011#4 ∧ c ≠ 0b0100#4 := by decide

theorem test_witness_DecodeAndEncodeAgree :
    Instr.wellFormed (.encode true) = true ∧ Instr.encode true ≠ .preambleBit ∧
      decode (.waveform [true, true, false]) = .ok .bitOne := ⟨rfl, by decide, rfl⟩

theorem test_witness_StepRunsTheDecodedInstruction :
    (withInput (.access (.write 0x0#4 (0xB#4).toNat))).pending =
        .access (.write 0x0#4 (0xB#4).toNat) :: [] ∧
      decode (.command 0xB#4) = .ok (.encode true) ∧
      (withInput (.symbol [true, true, false])).pending = .symbol [true, true, false] :: [] ∧
      decode (.waveform [true, true, false]) = .ok .bitOne := ⟨rfl, rfl, rfl, rfl⟩

theorem test_witness_IdleStepKeepsAllState : State.reset.pending = [] := rfl

theorem test_witness_IllegalCommandWordsAreRefused :
    ∀ c ∈ [0x5#4, 0x6#4, 0x7#4, 0xD#4, 0xF#4, 0x8#4, 0xC#4],
      (withInput (.access (.write 0x0#4 c.toNat))).pending = .access (.write 0x0#4 c.toNat) :: [] := by
  intro c _; rfl

theorem test_witness_ReservedRegistersRefuseAllAccess :
    (0xE#4 = 0xE#4 ∨ 0xE#4 = 0xF#4) ∧ (0xF#4 = 0xE#4 ∨ 0xF#4 = 0xF#4) ∧
      (withInput (.access (.write 0xE#4 0))).pending = .access (.write 0xE#4 0) :: [] ∧
      (withInput (.access (.read 0xF#4))).pending = .access (.read 0xF#4) :: [] :=
  ⟨by decide, by decide, rfl, rfl⟩

theorem test_witness_IllegalRegisterAccessIsRefused :
    (∀ num ∈ [0x1#4, 0x7#4, 0xD#4], 0x1#4 = num ∨ (0x7#4 ≤ num ∧ num ≤ 0xD#4)) ∧
      (withInput (.access (.write 0xD#4 0))).pending = .access (.write 0xD#4 0) :: [] ∧
      (withInput (.access (.read 0x0#4))).pending = .access (.read 0x0#4) :: [] ∧
      (0x6#4, 7) ∈ [(0x0#4, 4), (0x2#4, 24), (0x3#4, 16), (0x4#4, 8), (0x5#4, 64), (0x6#4, 7)] ∧
      2 ^ 7 ≤ 128 ∧
      (withInput (.access (.write 0x6#4 128))).pending = .access (.write 0x6#4 128) :: [] :=
  ⟨by decide, rfl, rfl, by decide, by decide, rfl⟩

theorem test_witness_HostWriteStoresOneOperand :
    (withInput (.access (.write 0x2#4 (0xFFFFFF#24).toNat))).pending =
        .access (.write 0x2#4 (0xFFFFFF#24).toNat) :: [] ∧
      (withInput (.access (.write 0x3#4 (0xFFFF#16).toNat))).pending =
        .access (.write 0x3#4 (0xFFFF#16).toNat) :: [] ∧
      (withInput (.access (.write 0x4#4 (0xFF#8).toNat))).pending =
        .access (.write 0x4#4 (0xFF#8).toNat) :: [] ∧
      (withInput (.access (.write 0x5#4 (0xFFFFFFFFFFFFFFFF#64).toNat))).pending =
        .access (.write 0x5#4 (0xFFFFFFFFFFFFFFFF#64).toNat) :: [] ∧
      (withInput (.access (.write 0x6#4 (0x7F#7).toNat))).pending =
        .access (.write 0x6#4 (0x7F#7).toNat) :: [] := ⟨rfl, rfl, rfl, rfl, rfl⟩

/-- The last register of the list, holding a value that is not 0. -/
def withDecCksum : State := { withInput (.access (.read 0xD#4)) with decCksum := 0xA2#8 }

theorem test_witness_HostReadReturnsTheRegister :
    let s := withDecCksum
    (0xD#4, 0xA2) ∈ [(0x1#4, s.status.toNat), (0x2#4, s.inDevice.toNat), (0x3#4, s.inAddress.toNat),
      (0x4#4, s.inCommand.toNat), (0x5#4, s.inBits.toNat), (0x6#4, s.inBitcount.toNat),
      (0x7#4, s.outCksum.toNat), (0x8#4, s.outWord.toNat), (0x9#4, s.decStart.toNat),
      (0xA#4, s.decDevice.toNat), (0xB#4, s.decAddress.toNat), (0xC#4, s.decCommand.toNat),
      (0xD#4, s.decCksum.toNat)] ∧ s.pending = .access (.read 0xD#4) :: [] := ⟨by decide, rfl⟩

theorem test_witness_HostActionsFollowTheirRules :
    (withInput (.access (.loadRx [pp 1 1]))).pending = .access (.loadRx [pp 1 1]) :: [] ∧
      (withInput (.access (.appendRx [pp 1 1]))).pending = .access (.appendRx [pp 1 1]) :: [] ∧
      (withInput (.access .readCur)).pending = .access .readCur :: [] ∧
      (withInput (.access (.drainTx 0))).pending = .access (.drainTx 0) :: [] :=
  ⟨rfl, rfl, rfl, rfl⟩

theorem test_witness_LoopbackMovesTheSinkToTheSource :
    State.reset.txSeq.length ≤ Config.rxCap := Nat.zero_le _

/-- R84: SETBITS with the count left out, and with a count of 63. -/
theorem test_setBits :
    expandStmt State.reset (.setBits 0xA3 none) = [.write 0x5#4 0xA3, .write 0x6#4 64] ∧
      expandStmt State.reset (.setBits 0xA3 (some 63)) = [.write 0x5#4 0xA3, .write 0x6#4 63] :=
  ⟨rfl, rfl⟩

/-- Accesses on each side of the bounds of R205. -/
theorem test_witness_AccessesThatSpellNothingRefuseTheRun :
    (withInput (.access (.write 0x0#4 5))).pending = .access (.write 0x0#4 5) :: [] ∧
      SpellsNothing State.reset (.write 0x0#4 5) ∧ ¬ SpellsNothing State.reset (.write 0x0#4 4) ∧
      SpellsNothing State.reset (.write 0x6#4 128) ∧ ¬ SpellsNothing State.reset (.write 0x6#4 127) ∧
      SpellsNothing State.reset (.write 0xD#4 0) ∧ SpellsNothing State.reset (.read 0x0#4) ∧
      ¬ SpellsNothing State.reset (.read 0xD#4) ∧ SpellsNothing State.reset (.read 0xE#4) ∧
      SpellsNothing State.reset (.drainTx 1) ∧ ¬ SpellsNothing State.reset (.drainTx 0) ∧
      SpellsNothing State.reset (.loadRx (List.replicate (Config.rxCap + 1) (pp 1 1))) ∧
      ¬ SpellsNothing State.reset (.loadRx []) ∧
      SpellsNothing State.reset (.appendRx (List.replicate (Config.rxCap + 1) (pp 1 1))) ∧
      ¬ SpellsNothing State.reset (.appendRx []) := by
  simp [SpellsNothing, withInput, State.reset, State.rxLen]

/-- A run that comes to a refused access: a write that stores, then a read of CMD. -/
theorem test_witness_AccessesThatSpellNothingRefuseTheRun_run :
    let s : State := { State.reset with
      pending := [HostAccess.write 0x4#4 0x0B].map Input.access ++ .access (.read 0x0#4) :: [] }
    (∃ t, core.run 1 s = .next t ∧ t.inCommand = 0x0B#8 ∧ SpellsNothing t (.read 0x0#4)) ∧
      core.run 3 s = .refused (.readWriteOnly .cmd) :=
  ⟨⟨_, rfl, rfl, .inl rfl⟩, rfl⟩

theorem test_witness_UnpackResult :
    (withBits 0xA3505DE901000BA2#64 63#7).inBitcount.toNat < 64 ∧
      64 ≤ (withBits 0xA3505DE901000BA3#64 64#7).inBitcount.toNat ∧
      wordChecksum 0xA3505DE901000BA3#64 ≠ checksum (wordDevice 0xA3505DE901000BA3#64)
        (wordAddress 0xA3505DE901000BA3#64) (wordCommand 0xA3505DE901000BA3#64) ∧
      64 ≤ (withBits 0xA3505DE901000BA2#64 127#7).inBitcount.toNat ∧
      wordChecksum 0xA3505DE901000BA2#64 = checksum (wordDevice 0xA3505DE901000BA2#64)
        (wordAddress 0xA3505DE901000BA2#64) (wordCommand 0xA3505DE901000BA2#64) := by decide +kernel

/-- The source of the decode witnesses: garbage, SYNC, 64 bits, EOM (V-DE-2 and V-DE-5). -/
def rxOf (w : FrameWord) : State :=
  withRx ([pp 1000 1000, pp 5100 600] ++ nominalBits w ++ [pp 600 5100]) 0

theorem test_witness_SingleBitFlipsAreAlwaysCaught :
    (unpackCore 0xA3505DE901000BA2#64).isSome = true ∧ 7 < 8 ∧
      (withBits (0xA3505DE901000BA2#64 ^^^ (1#64 <<< 7)) 64#7).inBits =
        0xA3505DE901000BA2#64 ^^^ (1#64 <<< 7) ∧
      64 ≤ (withBits (0xA3505DE901000BA2#64 ^^^ (1#64 <<< 7)) 64#7).inBitcount.toNat ∧
      FirstSync (pct 25) (rxOf (0xA3505DE901000BA2#64 ^^^ (1#64 <<< 7))) 1 ∧
      BitsAfter (pct 25) (rxOf (0xA3505DE901000BA2#64 ^^^ (1#64 <<< 7))) 1
        (0xA3505DE901000BA2#64 ^^^ (1#64 <<< 7)) := by decide +kernel

/-- The two thresholds of R174, on each side. -/
theorem test_separating_thresholds :
    Separating (pct 33) ∧ ¬ Separating (pct 34) := ⟨by decide, by decide⟩

theorem test_separating_thresholds_abs :
    Separating ⟨.abs, 0, 149#32⟩ ∧ ¬ Separating ⟨.abs, 0, 150#32⟩ := ⟨by decide, by decide⟩

theorem test_witness_SeparatingTolerances :
    Separating (pct 33) ∧ Symbol.sync ≠ .preambleBit ∧
      matchPair (pct 33) (some (pp 5100 600)) .sync = true := ⟨by decide, by decide, by decide⟩

theorem test_witness_DecodeWithoutSync :
    (withRx [pp 300 600, pp 1000 1000] 1).rxCur ≤ (withRx [pp 300 600, pp 1000 1000] 1).rxLen ∧
      NoSyncBetween (pct 25) (withRx [pp 300 600, pp 1000 1000] 1)
        (withRx [pp 300 600, pp 1000 1000] 1).rxCur (withRx [pp 300 600, pp 1000 1000] 1).rxLen := by
  decide +kernel

/-- A bad first bit (i = 0) and a missing last one (i = 63). -/
theorem test_witness_DecodeStopsAtTheFirstBadSymbol :
    FirstSync (pct 25) (withRx [pp 300 600, pp 5100 600] 0) 1 ∧ 0 < 64 ∧
      classifyBit (pct 25) (withRx [pp 300 600, pp 5100 600] 0).rxBuf[1 + 1 + 0]? = none ∧
      FirstSync (pct 25) (withRx ([pp 5100 600] ++ (nominalBits 0#64).take 63) 0) 0 ∧ 63 < 64 ∧
      (∀ j, j < 63 → (classifyBit (pct 25)
        (withRx ([pp 5100 600] ++ (nominalBits 0#64).take 63) 0).rxBuf[0 + 1 + j]?).isSome = true) ∧
      classifyBit (pct 25)
        (withRx ([pp 5100 600] ++ (nominalBits 0#64).take 63) 0).rxBuf[0 + 1 + 63]? = none := by
  decide +kernel

theorem test_witness_DecodeRejectsABadChecksum :
    FirstSync (pct 25) (rxOf 0xA3505DE901000BA3#64) 1 ∧
      BitsAfter (pct 25) (rxOf 0xA3505DE901000BA3#64) 1 0xA3505DE901000BA3#64 ∧
      wordChecksum 0xA3505DE901000BA3#64 ≠ checksum (wordDevice 0xA3505DE901000BA3#64)
        (wordAddress 0xA3505DE901000BA3#64) (wordCommand 0xA3505DE901000BA3#64) := by decide +kernel

theorem test_witness_DecodeReturnsTheFrame :
    FirstSync (pct 25) (rxOf 0xA3505DE901000BA2#64) 1 ∧
      BitsAfter (pct 25) (rxOf 0xA3505DE901000BA2#64) 1 0xA3505DE901000BA2#64 ∧
      wordChecksum 0xA3505DE901000BA2#64 = checksum (wordDevice 0xA3505DE901000BA2#64)
        (wordAddress 0xA3505DE901000BA2#64) (wordCommand 0xA3505DE901000BA2#64) := by decide +kernel

theorem test_witness_RepeatedDecodeReachesNoSyncFound :
    (rxOf 0#64).rxCur ≤ (rxOf 0#64).rxLen := by decide

theorem test_witness_GarbageAheadIsSkipped :
    (rxOf 0#64).rxCur + 1 ≤ (rxOf 0#64).rxLen ∧
      NoSyncBetween (pct 25) (rxOf 0#64) (rxOf 0#64).rxCur ((rxOf 0#64).rxCur + 1) := by decide +kernel

theorem test_witness_EncodeDecodeRoundTrip :
    Separating (pct 33) ∧ (if true then 404 else 396) ≤ 404 ∧ (if false then 404 else 396) ≤ 396 ∧
      State.reset.txSeq = [] := ⟨by decide, by decide, by decide, rfl⟩

theorem test_witness_EveryOperationReportsItself :
    decode (.command (commandWord .encode true)) = .ok (.encode true) ∧
      decode (.command (commandWord .decode false)) = .ok .decode := ⟨rfl, rfl⟩

/-- A state that differs from reset in STATUS, OUT and DEC only. -/
def withResults : State := { State.reset with status := 0x16#6, outWord := 1#64, decStart := 1#8 }

theorem test_witness_ResultsDoNotDependOnEarlierResults :
    decode (.command (commandWord .unpack false)) = .ok .unpack ∧ withResults ≠ State.reset ∧
      withResults.inDevice = State.reset.inDevice ∧ withResults.inAddress = State.reset.inAddress ∧
      withResults.inCommand = State.reset.inCommand ∧ withResults.inBits = State.reset.inBits ∧
      withResults.inBitcount = State.reset.inBitcount ∧ withResults.rxBuf = State.reset.rxBuf ∧
      withResults.rxCur = State.reset.rxCur ∧ withResults.txSeq = State.reset.txSeq :=
  ⟨rfl, by decide, rfl, rfl, rfl, rfl, rfl, rfl, rfl, rfl⟩

theorem test_witness_RepeatingAValidatorCommandChangesNothing :
    Instr.unpack = .cksum ∨ Instr.unpack = .pack ∨ Instr.unpack = .unpack := by decide

theorem test_witness_EveryStepKeepsTheRxSourceBounded :
    RxBounded (withInput (.access (.write 0x0#4 0x4))) ∧
      ∃ t, step (withInput (.access (.write 0x0#4 0x4))) = .next t ∧ t.status = 0x22#6 :=
  ⟨⟨Nat.zero_le _, Nat.zero_le _⟩, _, rfl, by decide⟩

theorem test_witness_EveryStepKeepsResultsConsistent :
    ResultsConsistent (withInput (.access (.write 0x0#4 0x2))) ∧
      ∃ t, step (withInput (.access (.write 0x0#4 0x2))) = .next t ∧ t.status = 0x16#6 :=
  ⟨⟨by decide, by decide, by decide, .inl rfl⟩, _, rfl, by decide⟩

theorem test_witness_EveryStepKeepsTheSinkNominal :
    TxNominal (withInput (.access (.write 0x0#4 0x3))) ∧
      ∃ t, step (withInput (.access (.write 0x0#4 0x3))) = .next t ∧ t.txSeq.length = 396 :=
  ⟨⟨fun p hp => by simp [withInput, State.reset] at hp, rfl⟩, _, rfl, by decide +kernel⟩

/-- Two pairs in the sink and a DRAIN_TX 1 pending. -/
def withSink : State :=
  { withInput (.access (.drainTx 1)) with txSeq := [pp 600 300, pp 300 600] }

theorem test_witness_PairsLeaveInTheOrderEmitted :
    ∃ t, step withSink = .next t ∧ t.sent = [pp 600 300] ∧ t.txSeq = [pp 300 600] :=
  ⟨_, rfl, rfl, rfl⟩

end Sys2Proof.Tests
end

/-! ### The state invariants and what a result depends on (10_state.md)

First what each operation answers, as one update of the state; then one principle for invariants of the
step; then the statements of 10_state.md. -/

namespace Sys2Proof.Machine

/-! #### The two halves of STATUS -/

@[simp] theorem statusCodeBits_statusWord (code : StatusCode) (op : Op) :
    statusCodeBits (statusWord code op) = code.bits := by
  cases code <;> cases op <;> rfl

@[simp] theorem statusOpBits_statusWord (code : StatusCode) (op : Op) :
    statusOpBits (statusWord code op) = op.bits := by
  cases code <;> cases op <;> rfl

/-- The failures each operation can report (60_exceptions.md R204): DECODE never SYNC_LOST
(42_pulse_decoder.md R164), and CKSUM, PACK and ENCODE none. -/
def failureCodes : Op → List StatusCode
  | .unpack => [.checksumMismatch, .malformedBit]
  | .decode => [.noSyncFound, .unrecognizedSymbol, .checksumMismatch]
  | .cksum | .pack | .encode => []

theorem statusWord_ok_mem_legalStatus (op : Op) : statusWord .ok op ∈ legalStatus := by
  cases op <;> decide

theorem isFailure_statusWord_ok (op : Op) : isFailure (statusWord .ok op) = false := by
  cases op <;> rfl

theorem statusWord_failure_mem_legalStatus {code : StatusCode} {op : Op}
    (h : code ∈ failureCodes op) : statusWord code op ∈ legalStatus := by
  revert code
  cases op <;> simp [failureCodes] <;> decide

/-- A reported CODE is none of NONE, SYNC_LOST and the reserved 7 (60_exceptions.md R204). -/
theorem codeBits_of_reported {code : StatusCode} {op : Op}
    (h : code = .ok ∨ code ∈ failureCodes op) :
    code.bits ∈ [1#3, 2#3, 4#3, 5#3, 6#3] := by
  rcases h with rfl | h
  · decide
  · revert code
    cases op <;> simp [failureCodes] <;> decide

/-! #### The end of an operation that returns a frame or a failure -/

/-- The state after UNPACK or DECODE has come to a frame or to a failure code. -/
def endFrame (op : Op) (r : Except StatusCode Frame) (s : State) : State :=
  match r with
  | .ok f => complete .ok op (setDec f s)
  | .error code => fail code op s

@[simp] theorem endFrame_ok (op : Op) (f : Frame) (s : State) :
    endFrame op (.ok f) s = complete .ok op (setDec f s) := rfl

@[simp] theorem endFrame_error (op : Op) (code : StatusCode) (s : State) :
    endFrame op (.error code) s = fail code op s := rfl

@[simp] theorem endFrame_outWord (op : Op) (r : Except StatusCode Frame) (s : State) :
    (endFrame op r s).outWord = s.outWord := by cases r <;> rfl

@[simp] theorem endFrame_rxBuf (op : Op) (r : Except StatusCode Frame) (s : State) :
    (endFrame op r s).rxBuf = s.rxBuf := by cases r <;> rfl

@[simp] theorem endFrame_rxCur (op : Op) (r : Except StatusCode Frame) (s : State) :
    (endFrame op r s).rxCur = s.rxCur := by cases r <;> rfl

@[simp] theorem endFrame_txSeq (op : Op) (r : Except StatusCode Frame) (s : State) :
    (endFrame op r s).txSeq = s.txSeq := by cases r <;> rfl

/-- The end of an operation writes STATUS and DEC alone, whatever pairs stand ahead in the sink. -/
theorem endFrame_behind_sink (op : Op) (r : Except StatusCode Frame) (s : State)
    (l : List PulsePair) (h : Nat) :
    endFrame op r { s with txSeq := l ++ s.txSeq, txCarrier := h } =
      { endFrame op r s with txSeq := l ++ (endFrame op r s).txSeq, txCarrier := h } := by
  cases r <;> rfl

/-- STATUS and DEC after the end of an operation are functions of its result. -/
theorem endFrame_results (op : Op) (r : Except StatusCode Frame) (s s' : State) :
    (endFrame op r s').status = (endFrame op r s).status ∧
      (endFrame op r s').decStart = (endFrame op r s).decStart ∧
      (endFrame op r s').decDevice = (endFrame op r s).decDevice ∧
      (endFrame op r s').decAddress = (endFrame op r s).decAddress ∧
      (endFrame op r s').decCommand = (endFrame op r s).decCommand ∧
      (endFrame op r s').decCksum = (endFrame op r s).decCksum := by
  cases r <;> exact ⟨rfl, rfl, rfl, rfl, rfl, rfl⟩

/-- A result an operation can come to: a frame whose checksum is right, or one of its failures. -/
def LegalResult (op : Op) : Except StatusCode Frame → Prop
  | .ok f => f.checksum = checksum f.device f.address f.command
  | .error code => code ∈ failureCodes op

/-- STATUS after an operation that came to a legal result. -/
theorem endFrame_status {op : Op} {r : Except StatusCode Frame} (s : State) (hr : LegalResult op r) :
    ∃ code, (endFrame op r s).status = statusWord code op ∧
      (code = .ok ∨ code ∈ failureCodes op) := by
  cases r with
  | ok f => exact ⟨.ok, rfl, .inl rfl⟩
  | error code => exact ⟨code, rfl, .inr hr⟩

/-! #### UNPACK -/

/-- What UNPACK comes to, from its two operands alone (40_frame_codec.md R105). -/
def unpackResult (bits : BitVec 64) (count : BitVec 7) : Except StatusCode Frame :=
  match takeBits bits count Config.frameBits 0 0#64 with
  | none => .error .malformedBit
  | some w =>
    match unpackCore w with
    | none => .error .checksumMismatch
    | some f => .ok f

theorem exec_unpack_eq (s : State) :
    exec .unpack s = .next (endFrame .unpack (unpackResult s.inBits s.inBitcount) s) := by
  change execUnpack s = _
  unfold execUnpack unpackResult
  cases takeBits s.inBits s.inBitcount Config.frameBits 0 0#64 with
  | none => rfl
  | some w => cases h : unpackCore w <;> simp [h]

theorem unpackResult_legal (bits : BitVec 64) (count : BitVec 7) :
    LegalResult .unpack (unpackResult bits count) := by
  unfold unpackResult
  cases takeBits bits count Config.frameBits 0 0#64 with
  | none => simp [LegalResult, failureCodes]
  | some w =>
    cases h : unpackCore w with
    | none => simp [h, LegalResult, failureCodes]
    | some f => simpa [h, LegalResult] using (unpackCore_some h).2

/-! #### DECODE, one lemma per outcome (42_pulse_decoder.md R168, R169) -/

theorem decodeAt_noSync {tol : Tolerance} {s : State}
    (h : NoSyncBetween tol s s.rxCur s.rxLen) :
    decodeAt tol s =
      .next (fail .noSyncFound .decode { s with rxCur := max s.rxCur s.rxLen }) := by
  simp only [decodeAt, decodePass, scanSync_none h, andThen_ended, finishFrame]

/-- After the first SYNC, DECODE is its stages 3 to 5 from the next pair on. -/
theorem decodePass_firstSync {tol : Tolerance} {s : State} {k : Nat} (h : FirstSync tol s k) :
    decodePass tol s =
      andThen (readBits tol Config.frameBits 0#64 { s with rxCur := k + 1 }) fun w s =>
      andThen (validate w s) fun f s =>
      andThen (consumeEom tol s) fun _ s => .cont f s := by
  obtain ⟨-, hmatch, -⟩ := id h
  simp only [decodePass, scanSync_first h, andThen_cont,
    consumeSync_of_match (s := { s with rxCur := k }) hmatch]

theorem decodeAt_badSymbol {tol : Tolerance} {s : State} {k i : Nat} (h : FirstSync tol s k)
    (hi : i < 64) (hbits : ∀ j, j < i → (classifyBit tol s.rxBuf[k + 1 + j]?).isSome)
    (hbad : classifyBit tol s.rxBuf[k + 1 + i]? = none) :
    decodeAt tol s =
      .next (fail .unrecognizedSymbol .decode { s with rxCur := k + 1 + i }) := by
  simp only [decodeAt, decodePass_firstSync h,
    readBits_stops Config.frameBits i 0#64 { s with rxCur := k + 1 } hi hbits hbad,
    andThen_ended, finishFrame]

theorem decodeAt_badChecksum {tol : Tolerance} {s : State} {k : Nat} {w : FrameWord}
    (h : FirstSync tol s k) (hbits : BitsAfter tol s k w) (hw : unpackCore w = none) :
    decodeAt tol s = .next (fail .checksumMismatch .decode { s with rxCur := k + 65 }) := by
  simp only [decodeAt, decodePass_firstSync h,
    readBits_word { s with rxCur := k + 1 } hbits, validate_bad _ hw,
    andThen_cont, andThen_ended, finishFrame]

theorem decodeAt_frame {tol : Tolerance} {s : State} {k : Nat} {w : FrameWord} {f : Frame}
    (h : FirstSync tol s k) (hbits : BitsAfter tol s k w) (hw : unpackCore w = some f) :
    decodeAt tol s = .next (complete .ok .decode (setDec f { s with
      rxCur := if matchPair tol s.rxBuf[k + 65]? .eom then k + 66 else k + 65 })) := by
  simp only [decodeAt, decodePass_firstSync h,
    readBits_word { s with rxCur := k + 1 } hbits, validate_ok _ hw,
    consumeEom_eq, andThen_cont, finishFrame]

/-! The cursor DECODE can reach: every pair it passes is there. -/

theorem firstSync_lt_rxLen {tol : Tolerance} {s : State} {k : Nat} (h : FirstSync tol s k) :
    k < s.rxLen := by
  obtain ⟨-, hmatch, -⟩ := h
  simpa using isSome_of_matchPair hmatch

theorem bitsAfter_lt_rxLen {tol : Tolerance} {s : State} {k : Nat} {w : FrameWord}
    (h : BitsAfter tol s k w) : k + 64 < s.rxLen := by
  simpa using isSome_of_classifyBit (h 63 (by omega))

/-- The first pair that is no bit stands no further than just after the end of the buffer. -/
theorem badSymbol_le_rxLen {tol : Tolerance} {s : State} {k i : Nat} (hk : k < s.rxLen)
    (hbits : ∀ j, j < i → (classifyBit tol s.rxBuf[k + 1 + j]?).isSome) : k + 1 + i ≤ s.rxLen := by
  cases i with
  | zero => omega
  | succ j =>
    obtain ⟨b, hb⟩ := Option.isSome_iff_exists.mp (hbits j (by omega))
    have : k + 1 + j < s.rxLen := by simpa using isSome_of_classifyBit hb
    omega

/-- Where DECODE stops after a frame: past the EOM exactly when there is one. -/
theorem afterEom_le_rxLen {tol : Tolerance} {s : State} {k : Nat} (hk : k + 64 < s.rxLen) :
    (if matchPair tol s.rxBuf[k + 65]? .eom then k + 66 else k + 65) ≤ s.rxLen := by
  split
  · next heom =>
    have : k + 65 < s.rxLen := by simpa using isSome_of_matchPair heom
    omega
  · omega

/-- DECODE reads the RX source alone: from a state's buffer and cursor it comes to one new cursor, not
beyond the end of the buffer, and one legal result, and every state with that source ends there. -/
theorem decodeAt_result (tol : Tolerance) (s : State) :
    ∃ c r, c ≤ max s.rxCur s.rxLen ∧ LegalResult .decode r ∧
      ∀ s' : State, s'.rxBuf = s.rxBuf → s'.rxCur = s.rxCur →
        decodeAt tol s' = .next (endFrame .decode r { s' with rxCur := c }) := by
  rcases noSync_or_firstSync tol s with hno | ⟨k, hk⟩
  · refine ⟨max s.rxCur s.rxLen, .error .noSyncFound, le_refl _, by simp [LegalResult, failureCodes],
      fun s' hbuf hcur => ?_⟩
    rw [decodeAt_noSync (by simpa only [NoSyncBetween, State.rxLen, hbuf, hcur] using hno),
      endFrame_error, State.rxLen, hbuf, hcur]
  have hlen := firstSync_lt_rxLen hk
  have hk' : ∀ s' : State, s'.rxBuf = s.rxBuf → s'.rxCur = s.rxCur → FirstSync tol s' k :=
    fun s' hbuf hcur => by simpa only [FirstSync, NoSyncBetween, hbuf, hcur] using hk
  rcases bits_or_firstBad tol { s with rxCur := k + 1 } with ⟨w, hbits⟩ | ⟨i, hi, hbits, hbad⟩
  · have hlast : k + 64 < s.rxLen := bitsAfter_lt_rxLen hbits
    have hbits' : ∀ s' : State, s'.rxBuf = s.rxBuf → BitsAfter tol s' k w :=
      fun s' hbuf => by simpa only [BitsAfter, hbuf] using hbits
    cases hw : unpackCore w with
    | none =>
      exact ⟨k + 65, .error .checksumMismatch, le_max_of_le_right hlast,
        by simp [LegalResult, failureCodes],
        fun s' hbuf hcur => decodeAt_badChecksum (hk' s' hbuf hcur) (hbits' s' hbuf) hw⟩
    | some f =>
      refine ⟨_, .ok f, le_max_of_le_right (afterEom_le_rxLen (tol := tol) hlast),
        (unpackCore_some hw).2, fun s' hbuf hcur => ?_⟩
      rw [decodeAt_frame (hk' s' hbuf hcur) (hbits' s' hbuf) hw, hbuf, endFrame_ok]
  · exact ⟨k + 1 + i, .error .unrecognizedSymbol, le_max_of_le_right (badSymbol_le_rxLen hlen hbits),
      by simp [LegalResult, failureCodes],
      fun s' hbuf hcur => decodeAt_badSymbol (hk' s' hbuf hcur) hi
        (by simpa only [hbuf] using hbits) (by simpa only [hbuf] using hbad)⟩

/-- The row DECODE is `decodeAt` at the configured tolerance (00_scope.md R7). -/
theorem exec_decode_result (s : State) :
    ∃ c r, c ≤ max s.rxCur s.rxLen ∧ LegalResult .decode r ∧
      ∀ s' : State, s'.rxBuf = s.rxBuf → s'.rxCur = s.rxCur →
        exec .decode s' = .next (endFrame .decode r { s' with rxCur := c }) :=
  decodeAt_result Config.tolerance s

/-! #### ENCODE and the symbol rows -/

/-- ENCODE appends its burst, declares no carrier and reports OK (41_pulse_encoder.md R133). -/
theorem exec_encode_eq (pre : Bool) (s : State) :
    exec (.encode pre) s = .next { s with
      txSeq := s.txSeq ++
        (burstSymbols pre (pack s.inDevice s.inAddress s.inCommand)).map nominalPair
      txCarrier := 0
      status := statusWord .ok .encode } := by
  have hcopies := emitTimes_eq (emitCopy_eq (pack s.inDevice s.inAddress s.inCommand)) Config.repeats
  have hpreamble := emitTimes_eq (f := emitSymbol .preambleBit) (l := [nominalPair .preambleBit])
    (fun _ => rfl) Config.preambleLen
  cases pre <;>
    simp [exec, execEncode, hcopies, hpreamble, burstSymbols, complete, declareNoCarrier,
      List.map_flatten]

/-- The rows of the opcode table: five operations and the symbols' rows. -/
theorem instr_cases (i : Instr) :
    i = .cksum ∨ i = .pack ∨ i = .unpack ∨ (∃ pre, i = .encode pre) ∨ i = .decode ∨
      ∃ y, i = symbolInstr y := by
  cases i with
  | cksum | pack | unpack | decode => simp
  | encode pre => simp
  | sync => simpa using ⟨.sync, rfl⟩
  | eom => simpa using ⟨.eom, rfl⟩
  | bitOne => simpa using ⟨.bitOne, rfl⟩
  | bitZero => simpa using ⟨.bitZero, rfl⟩
  | preambleBit => simpa using ⟨.preambleBit, rfl⟩

theorem exec_symbolInstr (y : Symbol) (s : State) :
    exec (symbolInstr y) s = .next (emitSymbol y s) := by cases y <;> rfl

/-! #### The instruction a command word spells -/

/-- The instruction of an operation; PRE is ENCODE's alone (10_state.md R22). -/
def opInstr : Op → Bool → Instr
  | .cksum, _ => .cksum
  | .pack, _ => .pack
  | .unpack, _ => .unpack
  | .encode, pre => .encode pre
  | .decode, _ => .decode

/-- A command word that decodes at all decodes to its operation's instruction (30_encoding.md R71). -/
theorem eq_opInstr_of_decode {op : Op} {pre : Bool} {i : Instr}
    (h : decode (.command (commandWord op pre)) = .ok i) : i = opInstr op pre := by
  cases op <;> cases pre <;> cases h <;> rfl

/-- What an operation leaves in STATUS: its OP, and OK or one of its failures. -/
theorem exec_opInstr_status (op : Op) (pre : Bool) (s : State) :
    ∃ t code, exec (opInstr op pre) s = .next t ∧ t.status = statusWord code op ∧
      (code = .ok ∨ code ∈ failureCodes op) := by
  cases op with
  | cksum => exact ⟨_, .ok, rfl, rfl, .inl rfl⟩
  | pack => exact ⟨_, .ok, rfl, rfl, .inl rfl⟩
  | encode => exact ⟨_, .ok, exec_encode_eq pre s, rfl, .inl rfl⟩
  | unpack =>
    obtain ⟨code, hstatus, hcode⟩ := endFrame_status s (unpackResult_legal s.inBits s.inBitcount)
    exact ⟨_, code, exec_unpack_eq s, hstatus, hcode⟩
  | decode =>
    obtain ⟨c, r, -, hr, hrun⟩ := exec_decode_result s
    obtain ⟨code, hstatus, hcode⟩ := endFrame_status { s with rxCur := c } hr
    exact ⟨_, code, hrun s rfl rfl, hstatus, hcode⟩

/-! #### Invariants of the step -/

/-- A host write that stores changes IN registers alone (10_state.md R21). -/
theorem storeReg_eq (r : Reg) (data : Nat) (s : State) :
    ∃ d a c b n, storeReg r data s =
      { s with inDevice := d, inAddress := a, inCommand := c, inBits := b, inBitcount := n } := by
  cases r <;> exact ⟨_, _, _, _, _, rfl⟩

/-- The property does not speak of what the host alone writes or keeps: the IN registers, the inputs
still to issue and the replies. -/
def IgnoresHostSide (P : State → Prop) : Prop :=
  ∀ (s : State) d a c b n pending replies, P s → P { s with
    inDevice := d, inAddress := a, inCommand := c, inBits := b, inBitcount := n
    pending := pending, replies := replies }

/-- The invariant principle of the machine: a property that ignores the host's side is kept by every
step if every instruction and each host action on the source and the sink keeps it (00_scope.md R11,
20_memory.md R61). -/
theorem step_preserves {P : State → Prop} (hhost : IgnoresHostSide P)
    (hexec : ∀ i s t, P s → exec i s = .next t → P t)
    (hload : ∀ s l, l.length ≤ Config.rxCap → P s → P { s with rxBuf := l, rxCur := 0 })
    (happend : ∀ s l, s.rxLen + l.length ≤ Config.rxCap → P s →
      P { s with rxBuf := s.rxBuf ++ l })
    (hdrain : ∀ s n, P s →
      P { s with txSeq := s.txSeq.drop n, sent := s.sent ++ s.txSeq.take n })
    {s t : State} (hs : P s) (hstep : step s = .next t) : P t := by
  rcases step_cases s with ⟨-, hidle⟩ | ⟨x, rest, -, hrun⟩
  · obtain rfl : s = t := by simpa [hidle] using hstep
    exact hs
  rw [hrun] at hstep
  have hs₀ : P { s with pending := rest } := hhost s _ _ _ _ _ rest _ hs
  generalize { s with pending := rest } = s₀ at hs₀ hstep
  cases x with
  | symbol u =>
    obtain ⟨i, -, hi⟩ := runCode_next hstep
    exact hexec i _ _ hs₀ hi
  | access a =>
    cases a with
    | write num data =>
      obtain ⟨r, -, -, -, ⟨-, i, -, hi⟩ | ⟨-, rfl⟩⟩ := hostWrite_next hstep
      · exact hexec i _ _ hs₀ hi
      · obtain ⟨d, a, c, b, n, hstore⟩ := storeReg_eq r data s₀
        exact hstore ▸ hhost s₀ d a c b n _ _ hs₀
    | read num =>
      obtain ⟨r, v, -, -, rfl⟩ := hostRead_next hstep
      exact hhost s₀ _ _ _ _ _ _ _ hs₀
    | loadRx l =>
      obtain ⟨hfit, rfl⟩ := loadRx_next hstep
      exact hload s₀ l hfit hs₀
    | appendRx l =>
      obtain ⟨hfit, rfl⟩ := appendRx_next hstep
      exact happend s₀ l hfit hs₀
    | readCur =>
      obtain rfl := readCur_next hstep
      exact hhost s₀ _ _ _ _ _ _ _ hs₀
    | drainTx n =>
      obtain ⟨-, rfl⟩ := drainTx_next hstep
      exact hdrain s₀ n hs₀

/-! #### The RX source stays within its bounds -/

/-- No instruction changes the buffer or moves the cursor beyond its end (20_memory.md R54). -/
theorem exec_rx {i : Instr} {s t : State} (h : exec i s = .next t) :
    t.rxBuf = s.rxBuf ∧ t.rxCur ≤ max s.rxCur s.rxLen := by
  rcases instr_cases i with rfl | rfl | rfl | ⟨pre, rfl⟩ | rfl | ⟨y, rfl⟩
  · cases h; simp
  · cases h; simp
  · cases (exec_unpack_eq s).symm.trans h; simp
  · cases (exec_encode_eq pre s).symm.trans h; simp
  · obtain ⟨c, r, hc, -, hrun⟩ := exec_decode_result s
    cases (hrun s rfl rfl).symm.trans h
    simpa using hc
  · cases (exec_symbolInstr y s).symm.trans h; simp

/-- Settles O50: the invariant principle at `RxBounded`; only DECODE moves the cursor, and never beyond
the end. -/
theorem everyStepKeepsTheRxSourceBounded : Obligations.EveryStepKeepsTheRxSourceBounded := by
  intro s t hs hstep
  refine step_preserves (P := RxBounded) (fun s _ _ _ _ _ _ _ h => h) ?exec ?load ?append
    (fun s _ h => h) hs hstep
  case exec =>
    rintro i s t ⟨hcur, hcap⟩ hi
    obtain ⟨hbuf, hle⟩ := exec_rx hi
    simp only [RxBounded, State.rxLen, hbuf] at *
    omega
  case load => exact fun s l hfit _ => ⟨Nat.zero_le _, hfit⟩
  case append =>
    rintro s l hfit ⟨hcur, -⟩
    simp only [RxBounded, State.rxLen, List.length_append] at *
    omega

/-! #### The results stay consistent -/

/-- A legal result leaves the results consistent: a failure clears DEC, a frame has its checksum
(10_state.md R27, 40_frame_codec.md R104). -/
theorem ResultsConsistent.endFrame {s : State} (h : ResultsConsistent s) {op : Op}
    {r : Except StatusCode Frame} (hr : LegalResult op r) :
    ResultsConsistent (endFrame op r s) where
  status_legal := by
    cases r with
    | ok f => exact statusWord_ok_mem_legalStatus op
    | error code => exact statusWord_failure_mem_legalStatus hr
  failure_clears hfail := by
    cases r with
    | ok f => simp [isFailure_statusWord_ok] at hfail
    | error code => exact ⟨rfl, rfl, rfl, rfl, rfl⟩
  dec_checksum := by
    cases r with
    | ok f => exact hr
    | error code => simp; decide
  out_word := by simpa using h.out_word

/-- An operation that reports OK and writes no DEC register keeps the results consistent. -/
theorem ResultsConsistent.complete_ok {s : State} (h : ResultsConsistent s) (op : Op) :
    ResultsConsistent (complete .ok op s) where
  status_legal := statusWord_ok_mem_legalStatus op
  failure_clears hfail := by simp [isFailure_statusWord_ok] at hfail
  dec_checksum := h.dec_checksum
  out_word := h.out_word

/-- Nothing outside STATUS, DEC and OUT_WORD matters to the consistency of the results. -/
theorem ResultsConsistent.of_eq {s t : State} (h : ResultsConsistent s)
    (hstatus : t.status = s.status) (hword : t.outWord = s.outWord)
    (hstart : t.decStart = s.decStart) (hdevice : t.decDevice = s.decDevice)
    (haddress : t.decAddress = s.decAddress) (hcommand : t.decCommand = s.decCommand)
    (hcksum : t.decCksum = s.decCksum) : ResultsConsistent t where
  status_legal := hstatus ▸ h.status_legal
  failure_clears := by
    rw [hstatus, hstart, hdevice, haddress, hcommand, hcksum]; exact h.failure_clears
  dec_checksum := by rw [hdevice, haddress, hcommand, hcksum]; exact h.dec_checksum
  out_word := hword ▸ h.out_word

theorem exec_keeps_resultsConsistent {i : Instr} {s t : State} (h : ResultsConsistent s)
    (hi : exec i s = .next t) : ResultsConsistent t := by
  rcases instr_cases i with rfl | rfl | rfl | ⟨pre, rfl⟩ | rfl | ⟨y, rfl⟩
  · cases hi
    exact (h.complete_ok .cksum).of_eq rfl rfl rfl rfl rfl rfl rfl
  · cases hi
    have hword : ResultsConsistent
        { s with outWord := pack s.inDevice s.inAddress s.inCommand } :=
      ⟨h.status_legal, h.failure_clears, h.dec_checksum, .inr ⟨_, _, _, rfl⟩⟩
    exact hword.complete_ok .pack
  · cases (exec_unpack_eq s).symm.trans hi
    exact h.endFrame (unpackResult_legal _ _)
  · cases (exec_encode_eq pre s).symm.trans hi
    exact (h.complete_ok .encode).of_eq rfl rfl rfl rfl rfl rfl rfl
  · obtain ⟨c, r, -, hr, hrun⟩ := exec_decode_result s
    cases (hrun s rfl rfl).symm.trans hi
    have hcur : ResultsConsistent { s with rxCur := c } := h.of_eq rfl rfl rfl rfl rfl rfl rfl
    exact hcur.endFrame hr
  · cases (exec_symbolInstr y s).symm.trans hi
    exact h.of_eq rfl rfl rfl rfl rfl rfl rfl

/-- Settles O51: the invariant principle at `ResultsConsistent`; no host access writes a result. -/
theorem everyStepKeepsResultsConsistent : Obligations.EveryStepKeepsResultsConsistent := by
  intro s t hs hstep
  exact step_preserves (P := ResultsConsistent)
    (fun s _ _ _ _ _ _ _ h => h.of_eq rfl rfl rfl rfl rfl rfl rfl)
    (fun i s t => exec_keeps_resultsConsistent)
    (fun s l _ h => h.of_eq rfl rfl rfl rfl rfl rfl rfl)
    (fun s l _ h => h.of_eq rfl rfl rfl rfl rfl rfl rfl)
    (fun s n h => h.of_eq rfl rfl rfl rfl rfl rfl rfl) hs hstep

/-! #### Reports and noninterference -/

/-- Settles O46: from what every operation leaves in STATUS. -/
theorem everyOperationReportsItself : Obligations.EveryOperationReportsItself := by
  intro op pre i s hdec
  obtain rfl := eq_opInstr_of_decode hdec
  obtain ⟨t, code, hrun, hstatus, hcode⟩ := exec_opInstr_status op pre s
  refine ⟨t, hrun, by simp [hstatus], ?_, ?_⟩
  · simpa [hstatus] using codeBits_of_reported hcode
  · intro hop
    have hnone : failureCodes op = [] := by rcases hop with rfl | rfl | rfl <;> rfl
    obtain rfl : code = .ok := by simpa [hnone] using hcode
    rw [hstatus, statusCodeBits_statusWord]
    rfl

/-- Settles O47: each row appends to the sink or leaves it, and ENCODE alone declares the carrier. -/
theorem noRowReadsTheSink : Obligations.NoRowReadsTheSink := by
  intro i s l h
  rcases instr_cases i with rfl | rfl | rfl | ⟨pre, rfl⟩ | rfl | ⟨y, rfl⟩
  · exact ⟨_, rfl, rfl⟩
  · exact ⟨_, rfl, rfl⟩
  · exact ⟨_, exec_unpack_eq s,
      (exec_unpack_eq _).trans (congrArg Host.Outcome.next (endFrame_behind_sink _ _ s l h))⟩
  · refine ⟨_, exec_encode_eq pre s, (exec_encode_eq pre _).trans ?_⟩
    cases pre <;> simp
  · obtain ⟨c, r, -, -, hrun⟩ := exec_decode_result s
    exact ⟨_, hrun s rfl rfl, (hrun { s with txSeq := l ++ s.txSeq, txCarrier := h } rfl rfl).trans
      (congrArg Host.Outcome.next (endFrame_behind_sink .decode r { s with rxCur := c } l h))⟩
  · refine ⟨_, exec_symbolInstr y s, (exec_symbolInstr y _).trans ?_⟩
    cases y <;> simp [emitSymbol, emit, symbolInstr]

/-- Settles O48: each operation's results as a function of its operands, its source and the sink. -/
theorem resultsDoNotDependOnEarlierResults : Obligations.ResultsDoNotDependOnEarlierResults := by
  intro op pre i s s' hdec hdevice haddress hcommand hbits hcount hbuf hcur hseq
  obtain rfl := eq_opInstr_of_decode hdec
  cases op with
  | cksum => exact ⟨_, _, rfl, rfl, by simp [opInstr, hdevice, haddress, hcommand, hcur, hseq]⟩
  | pack => exact ⟨_, _, rfl, rfl, by simp [opInstr, hdevice, haddress, hcommand, hcur, hseq]⟩
  | encode =>
    exact ⟨_, _, exec_encode_eq pre s, exec_encode_eq pre s',
      by simp [opInstr, hdevice, haddress, hcommand, hcur, hseq]⟩
  | unpack =>
    have hrun := exec_unpack_eq s'
    rw [hbits, hcount] at hrun
    obtain ⟨hstatus, hresult⟩ := endFrame_results .unpack (unpackResult s.inBits s.inBitcount) s s'
    exact ⟨_, _, exec_unpack_eq s, hrun, hstatus, by simp [hcur], by simp [hseq], nofun, nofun,
      fun _ => hresult⟩
  | decode =>
    obtain ⟨c, r, -, -, hrun⟩ := exec_decode_result s
    obtain ⟨hstatus, hresult⟩ :=
      endFrame_results .decode r { s with rxCur := c } { s' with rxCur := c }
    exact ⟨_, _, hrun s rfl rfl, hrun s' hbuf hcur, hstatus, by simp, by simp [hseq], nofun, nofun,
      fun _ => hresult⟩

/-! #### A step runs the decoded instruction -/

theorem step_of_pending {s : State} {x : Input} {rest : List Input} (h : s.pending = x :: rest) :
    step s = runInput x { s with pending := rest } := by
  simp [step, stepInput, h]

theorem runCode_of_decode {k : Code} {i : Instr} (h : decode k = .ok i) (s : State) :
    runCode k s = exec i s := by
  simp [runCode, h]

/-- A write of a command word issues it (10_state.md R22). -/
theorem hostWrite_cmd (c : BitVec 4) (s : State) :
    hostWrite 0x0#4 c.toNat s = runCode (.command c) s := by
  have hreg : regOfNum 0x0#4 = some .cmd := by decide
  have hfit : ¬ 2 ^ Reg.cmd.width ≤ c.toNat := Nat.not_le.mpr c.isLt
  simp [hostWrite, hreg, hfit, Reg.hostWrites]

/-- Settles O5: the next input reaches `exec` through the host port's write to CMD, or as a symbol. -/
theorem stepRunsTheDecodedInstruction : Obligations.StepRunsTheDecodedInstruction := by
  refine ⟨fun s rest c i hpending hdec => ?_, fun s rest u i hpending hdec => ?_⟩
  · calc step s
        = hostWrite 0x0#4 c.toNat { s with pending := rest } := step_of_pending hpending
      _ = runCode (.command c) { s with pending := rest } := hostWrite_cmd c _
      _ = exec i { s with pending := rest } := runCode_of_decode hdec _
  · calc step s
        = runCode (.waveform u) { s with pending := rest } := step_of_pending hpending
      _ = exec i { s with pending := rest } := runCode_of_decode hdec _

end Sys2Proof.Machine

/-! ### The source, the sink and the order of accesses (20_memory.md)

What one row can do to the state; then what each access does when other inputs stand behind it; then the
statements of 20_memory.md. -/

namespace Sys2Proof.Machine

/-! #### What a row can do -/

/-- Every end of UNPACK and DECODE writes STATUS and the DEC registers alone. -/
theorem endFrame_writes (op : Op) (r : Except StatusCode Frame) (s : State) :
    ∃ code f, endFrame op r s = complete code op (setDec f s) := by
  cases r with
  | ok f => exact ⟨.ok, f, rfl⟩
  | error code => exact ⟨code, _, rfl⟩

/-- DECODE moves the cursor only forward (20_memory.md R62). -/
theorem decodeAt_rxCur_le {tol : Tolerance} {s t : State} (h : decodeAt tol s = .next t) :
    s.rxCur ≤ t.rxCur := by
  rcases noSync_or_firstSync tol s with hno | ⟨k, hk⟩
  · cases (decodeAt_noSync hno).symm.trans h
    exact le_max_left _ _
  obtain ⟨hcur, -, -⟩ := id hk
  rcases bits_or_firstBad tol { s with rxCur := k + 1 } with ⟨w, hbits⟩ | ⟨i, hi, hbits, hbad⟩
  · cases hw : unpackCore w with
    | none =>
      cases (decodeAt_badChecksum hk hbits hw).symm.trans h
      exact Nat.le_add_right_of_le hcur
    | some f =>
      cases (decodeAt_frame hk hbits hw).symm.trans h
      simp only [complete_rxCur, setDec_rxCur]
      split <;> omega
  · cases (decodeAt_badSymbol hk hi hbits hbad).symm.trans h
    simp only [fail_rxCur]
    omega

/-- What the rows of the opcode table write, each named with all it can change (20_memory.md R57). -/
inductive RowEffect (s : State) : Instr → State → Prop where
  | cksum (v : BitVec 8) : RowEffect s .cksum (complete .ok .cksum { s with outCksum := v })
  | pack (w : FrameWord) : RowEffect s .pack (complete .ok .pack { s with outWord := w })
  | unpack (code : StatusCode) (f : Frame) : RowEffect s .unpack (complete code .unpack (setDec f s))
  | encode (pre : Bool) (l : List PulsePair) : RowEffect s (.encode pre)
      { s with txSeq := s.txSeq ++ l, txCarrier := 0, status := statusWord .ok .encode }
  | decode (code : StatusCode) (f : Frame) (c : Nat) (forward : s.rxCur ≤ c) :
      RowEffect s .decode (complete code .decode (setDec f { s with rxCur := c }))
  | symbol (y : Symbol) : RowEffect s (symbolInstr y) (emitSymbol y s)

/-- Every row completes from every state with its effect. -/
theorem exec_effect (i : Instr) (s : State) : ∃ t, exec i s = .next t ∧ RowEffect s i t := by
  rcases instr_cases i with rfl | rfl | rfl | ⟨pre, rfl⟩ | rfl | ⟨y, rfl⟩
  · exact ⟨_, rfl, .cksum _⟩
  · exact ⟨_, rfl, .pack _⟩
  · obtain ⟨code, f, hend⟩ := endFrame_writes .unpack (unpackResult s.inBits s.inBitcount) s
    exact ⟨_, (exec_unpack_eq s).trans (congrArg _ hend), .unpack code f⟩
  · exact ⟨_, exec_encode_eq pre s, .encode pre _⟩
  · obtain ⟨c, r, -, -, hrun⟩ := exec_decode_result s
    have hrun := hrun s rfl rfl
    have hforward : s.rxCur ≤ c := by simpa using decodeAt_rxCur_le hrun
    obtain ⟨code, f, hend⟩ := endFrame_writes .decode r { s with rxCur := c }
    exact ⟨_, hrun.trans (congrArg _ hend), .decode code f c hforward⟩
  · exact ⟨_, exec_symbolInstr y s, .symbol y⟩

/-- Settles O45: read off the effect of each row. -/
theorem everyRowCompletesWithinItsFrame : Obligations.EveryRowCompletesWithinItsFrame := by
  intro i s
  obtain ⟨t, hrun, heffect⟩ := exec_effect i s
  refine ⟨t, hrun, ?_⟩
  cases heffect with
  | cksum v => simp
  | pack w => simp
  | unpack code f => simp
  | encode pre l => simp
  | decode code f c hforward => simpa using hforward
  | symbol y => cases y <;> simp [symbolInstr]

/-! #### The sink -/

/-- A row appends to the sink or leaves it, and hands nothing on (20_memory.md R57). -/
theorem exec_sink {i : Instr} {s t : State} (h : exec i s = .next t) :
    t.sent = s.sent ∧ s.txSeq <+: t.txSeq := by
  obtain ⟨t', hrun, heffect⟩ := exec_effect i s
  obtain rfl : t' = t := by simpa [hrun] using h
  cases heffect <;> simp

/-- Settles O53: the invariant principle at "what was emitted so far still stands first"; a row appends,
and DRAIN_TX moves the front of the sink behind what was sent. -/
theorem pairsLeaveInTheOrderEmitted : Obligations.PairsLeaveInTheOrderEmitted := by
  intro s t hstep
  refine step_preserves (P := fun u => s.sent ++ s.txSeq <+: u.sent ++ u.txSeq)
    (fun u _ _ _ _ _ _ _ h => h) ?exec (fun u l _ h => h) (fun u l _ h => h) ?drain
    (List.prefix_refl _) hstep
  case exec =>
    intro i u v hu hi
    obtain ⟨hsent, hsink⟩ := exec_sink hi
    rw [hsent]
    exact hu.trans ((List.prefix_append_right_inj _).mpr hsink)
  case drain =>
    intro u n hu
    simpa using hu

/-! #### Repetition -/

/-- Coming to the same result again changes nothing. -/
theorem endFrame_endFrame (op : Op) (r : Except StatusCode Frame) (s : State) :
    endFrame op r (endFrame op r s) = endFrame op r s := by cases r <;> rfl

@[simp] theorem endFrame_inBits (op : Op) (r : Except StatusCode Frame) (s : State) :
    (endFrame op r s).inBits = s.inBits := by cases r <;> rfl

@[simp] theorem endFrame_inBitcount (op : Op) (r : Except StatusCode Frame) (s : State) :
    (endFrame op r s).inBitcount = s.inBitcount := by cases r <;> rfl

/-- Settles O49: each of the three writes a function of operands that it leaves as they are. -/
theorem repeatingAValidatorCommandChangesNothing :
    Obligations.RepeatingAValidatorCommandChangesNothing := by
  rintro i s (rfl | rfl | rfl)
  · exact ⟨_, rfl, rfl⟩
  · exact ⟨_, rfl, rfl⟩
  · refine ⟨_, exec_unpack_eq s, ?_⟩
    rw [exec_unpack_eq, endFrame_inBits, endFrame_inBitcount, endFrame_endFrame]

/-! #### No fault -/

theorem runCode_ne_fault (k : Code) (s : State) (f : Fault) : runCode k s ≠ .fault f := by
  unfold runCode
  split
  · next i _ =>
    obtain ⟨t, hrun, -⟩ := exec_effect i s
    simp [hrun]
  · nofun

theorem hostWrite_ne_fault (num : BitVec 4) (data : Nat) (s : State) (f : Fault) :
    hostWrite num data s ≠ .fault f := by
  unfold hostWrite
  split
  · nofun
  · split_ifs
    · nofun
    · nofun
    · exact runCode_ne_fault _ s f
    · nofun

theorem hostRead_ne_fault (num : BitVec 4) (s : State) (f : Fault) : hostRead num s ≠ .fault f := by
  unfold hostRead
  split
  · nofun
  · split <;> nofun

/-- No access faults: a command runs a row, which completes, and the others answer or are refused. -/
theorem perform_ne_fault (a : HostAccess) (s : State) (f : Fault) : perform a s ≠ .fault f := by
  cases a with
  | write num data => exact hostWrite_ne_fault num data s f
  | read num => exact hostRead_ne_fault num s f
  | loadRx l => simp only [perform, loadRx]; split <;> nofun
  | appendRx l => simp only [perform, appendRx]; split <;> nofun
  | readCur => nofun
  | drainTx n => simp only [perform, drainTx]; split <;> nofun

/-- Settles O55: a step is idle, an access or a symbol, and none of them faults. -/
theorem noStepFaults : Obligations.NoStepFaults := by
  intro s f
  rcases step_cases s with ⟨-, hidle⟩ | ⟨x, rest, -, hrun⟩
  · simp [hidle]
  · rw [hrun]
    cases x with
    | access a => exact perform_ne_fault a _ f
    | symbol u => exact runCode_ne_fault _ _ f

/-! #### The host actions -/

/-- Settles O13: a step performs the pending action on the state without it. -/
theorem hostActionsFollowTheirRules : Obligations.HostActionsFollowTheirRules := by
  intro s rest
  refine ⟨fun l h => ?load, fun l h => ?append, fun h => ?cur, fun n h => ?drain⟩
  case load =>
    calc step s = loadRx Config.rxCap l { s with pending := rest } := step_of_pending h
      _ = _ := rfl
  case append =>
    calc step s = appendRx Config.rxCap l { s with pending := rest } := step_of_pending h
      _ = _ := rfl
  case cur =>
    calc step s = readCur { s with pending := rest } := step_of_pending h
      _ = _ := rfl
  case drain =>
    calc step s = drainTx n { s with pending := rest } := step_of_pending h
      _ = _ := rfl

/-! #### The order of accesses

An access neither reads nor changes what is pending behind it, so it may be performed with any inputs
pending and the pending inputs put in place afterwards. -/

/-- An outcome with other inputs pending in its next state. -/
def withPending (p : List Input) : Out → Out
  | .next t => .next { t with pending := p }
  | .fault f => .fault f
  | .refused r => .refused r

@[simp] theorem withPending_next (p : List Input) (t : State) :
    withPending p (.next t) = .next { t with pending := p } := rfl

@[simp] theorem withPending_fault (p : List Input) (f : Fault) :
    withPending p (.fault f) = .fault f := rfl

@[simp] theorem withPending_refused (p : List Input) (r : Refusal) :
    withPending p (.refused r) = .refused r := rfl

theorem endFrame_pending (op : Op) (r : Except StatusCode Frame) (s : State) (p : List Input) :
    endFrame op r { s with pending := p } = { endFrame op r s with pending := p } := by
  cases r <;> rfl

theorem exec_withPending (i : Instr) (s : State) (p : List Input) :
    exec i { s with pending := p } = withPending p (exec i s) := by
  rcases instr_cases i with rfl | rfl | rfl | ⟨pre, rfl⟩ | rfl | ⟨y, rfl⟩
  · rfl
  · rfl
  · rw [exec_unpack_eq, exec_unpack_eq, endFrame_pending, withPending_next]
  · rw [exec_encode_eq, exec_encode_eq, withPending_next]
  · obtain ⟨c, r, -, -, hrun⟩ := exec_decode_result s
    rw [hrun s rfl rfl, hrun { s with pending := p } rfl rfl, withPending_next]
    exact congrArg _ (endFrame_pending .decode r { s with rxCur := c } p)
  · rw [exec_symbolInstr, exec_symbolInstr, withPending_next]
    rfl

theorem runCode_withPending (k : Code) (s : State) (p : List Input) :
    runCode k { s with pending := p } = withPending p (runCode k s) := by
  unfold runCode
  cases decode k with
  | ok i => exact exec_withPending i s p
  | error e => rfl

theorem storeReg_pending (r : Reg) (data : Nat) (s : State) (p : List Input) :
    storeReg r data { s with pending := p } = { storeReg r data s with pending := p } := by
  cases r <;> rfl

theorem hostWrite_withPending (num : BitVec 4) (data : Nat) (s : State) (p : List Input) :
    hostWrite num data { s with pending := p } = withPending p (hostWrite num data s) := by
  unfold hostWrite
  cases regOfNum num with
  | none => rfl
  | some r =>
    simp only [runCode_withPending, storeReg_pending]
    split_ifs <;> rfl

theorem readReg_pending (r : Reg) (s : State) (p : List Input) :
    readReg r { s with pending := p } = readReg r s := by cases r <;> rfl

theorem hostRead_withPending (num : BitVec 4) (s : State) (p : List Input) :
    hostRead num { s with pending := p } = withPending p (hostRead num s) := by
  unfold hostRead
  cases regOfNum num with
  | none => rfl
  | some r =>
    simp only [readReg_pending]
    cases readReg r s <;> rfl

/-- An access sees nothing of what is pending behind it (20_memory.md R62). -/
theorem perform_withPending (a : HostAccess) (s : State) (p : List Input) :
    perform a { s with pending := p } = withPending p (perform a s) := by
  cases a with
  | write num data => exact hostWrite_withPending num data s p
  | read num => exact hostRead_withPending num s p
  | loadRx l => simp only [perform, loadRx]; split <;> rfl
  | appendRx l => simp only [perform, appendRx]; split <;> rfl
  | readCur => rfl
  | drainTx n => simp only [perform, drainTx]; split <;> rfl

/-- Go on with `k` from the next state; a fault or a refusal ends the run (60_exceptions.md R205). -/
def goOn (o : Out) (k : State → Out) : Out :=
  match o with
  | .next t => k t
  | .fault f => .fault f
  | .refused r => .refused r

theorem core_run_succ (n : Nat) (s : State) : core.run (n + 1) s = goOn (step s) (core.run n) := by
  cases h : step s <;> simp [Host.Core.run, goOn, core, h]

theorem performAll_cons (a : HostAccess) (l : List HostAccess) (s : State) :
    performAll (a :: l) s = goOn (perform a s) (performAll l) := by
  rw [performAll]
  cases perform a s <;> rfl

/-- Settles O7, by induction on the accesses: the first step and the first access come to the same outcome,
but for what is pending in it. -/
theorem stepsFollowTheIssueOrder : Obligations.StepsFollowTheIssueOrder := by
  intro l rest s
  induction l generalizing s with
  | nil => rfl
  | cons a l ih =>
    have hstep : step { s with pending := (a :: l).map Input.access ++ rest } =
        withPending (l.map Input.access ++ rest) (perform a s) :=
      perform_withPending a s _
    rw [List.length_cons, core_run_succ, hstep, performAll_cons, perform_withPending a s rest]
    cases perform a s with
    | next t => exact ih t
    | fault f => rfl
    | refused r => rfl

end Sys2Proof.Machine

/-! ### The encodings, the host port and the sink (30_encoding.md)

First when a code decodes; then what is emitted and where it stands in a burst; then what register
accesses and the shorthands built of them answer; each part ends with its statements of 30_encoding.md. -/

namespace Sys2Proof.Machine

/-! #### Codes and instructions -/

theorem decode_encode {i : Instr} (h : i ≠ .preambleBit) : decode (encode i) = .ok i := by
  cases i with
  | preambleBit => exact absurd rfl h
  | encode pre => cases pre <;> rfl
  | cksum | pack | unpack | decode | sync | eom | bitOne | bitZero => rfl

/-- ENCODE is matched on the low three bits; they and PRE are the whole word (30_encoding.md R71). -/
theorem commandWord_encode_of_low {c : BitVec 4} (h : c &&& 0x7#4 = 0x3#4) :
    commandWord .encode (c.getLsbD 3) = c := by
  revert c
  decide

theorem encode_of_decodeCommand {c : BitVec 4} {i : Instr} (h : decodeCommand c = .ok i) :
    encode i = .command c := by
  unfold decodeCommand at h
  split_ifs at h with hencode hcksum hpack hunpack hdecode
  · cases h
    exact congrArg Code.command (commandWord_encode_of_low hencode)
  · cases h; subst hcksum; rfl
  · cases h; subst hpack; rfl
  · cases h; subst hunpack; rfl
  · cases h; subst hdecode; rfl

theorem encode_of_decodeWaveform {u : List Bool} {i : Instr} (h : decodeWaveform u = .ok i) :
    encode i = .waveform u := by
  unfold decodeWaveform at h
  split_ifs at h with hsync heom hone hzero
  · cases h; rw [hsync]; rfl
  · cases h; rw [heom]; rfl
  · cases h; rw [hone]; rfl
  · cases h; rw [hzero]; rfl

theorem encode_of_decode {k : Code} {i : Instr} (h : decode k = .ok i) : encode i = k := by
  cases k with
  | command c => exact encode_of_decodeCommand h
  | waveform u => exact encode_of_decodeWaveform h

theorem encodesWellFormed (i : Instr) : Laws.EncodesWellFormed.Statement i := by
  cases i with
  | cksum => exact Laws.EncodesWellFormed.cksum
  | pack => exact Laws.EncodesWellFormed.pack
  | unpack => exact Laws.EncodesWellFormed.unpack
  | encode pre => exact Laws.EncodesWellFormed.encode pre
  | decode => exact Laws.EncodesWellFormed.decode
  | sync => exact Laws.EncodesWellFormed.sync
  | eom => exact Laws.EncodesWellFormed.eom
  | bitOne => exact Laws.EncodesWellFormed.bitOne
  | bitZero => exact Laws.EncodesWellFormed.bitZero
  | preambleBit => exact Laws.EncodesWellFormed.preambleBit

/-- Each of the listed command words and waveforms is the code of a row that is looked for. -/
theorem exists_encode_of_wellFormed {k : Code} (h : k.wellFormed = true) :
    ∃ i, i ≠ .preambleBit ∧ encode i = k := by
  cases k with
  | command c =>
    have hc : c = 0x0#4 ∨ c = 0x1#4 ∨ c = 0x2#4 ∨ c = 0x3#4 ∨ c = 0xB#4 ∨ c = 0x4#4 := by
      simpa [Code.wellFormed] using h
    rcases hc with rfl | rfl | rfl | rfl | rfl | rfl
    · exact ⟨.cksum, nofun, rfl⟩
    · exact ⟨.pack, nofun, rfl⟩
    · exact ⟨.unpack, nofun, rfl⟩
    · exact ⟨.encode false, nofun, rfl⟩
    · exact ⟨.encode true, nofun, rfl⟩
    · exact ⟨.decode, nofun, rfl⟩
  | waveform u =>
    simp only [Code.wellFormed, List.contains_eq_mem, decide_eq_true_eq, List.mem_cons,
      List.not_mem_nil, or_false] at h
    rcases h with rfl | rfl | rfl | rfl
    · exact ⟨.sync, nofun, rfl⟩
    · exact ⟨.eom, nofun, rfl⟩
    · exact ⟨.bitOne, nofun, rfl⟩
    · exact ⟨.bitZero, nofun, rfl⟩

/-- Exactly the well-formed codes decode (30_encoding.md R72). -/
theorem decodes_iff_wellFormed (k : Code) : (∃ i, decode k = .ok i) ↔ k.wellFormed = true := by
  constructor
  · rintro ⟨i, hdec⟩
    obtain ⟨-, hcode⟩ := encodesWellFormed i
    exact encode_of_decode hdec ▸ hcode
  · intro hwf
    obtain ⟨i, hi, rfl⟩ := exists_encode_of_wellFormed hwf
    exact ⟨i, decode_encode hi⟩

theorem decode_error_of_not_wellFormed {k : Code} (h : ¬ k.wellFormed = true) :
    ∃ e, decode k = .error e := by
  cases hdec : decode k with
  | error e => exact ⟨e, rfl⟩
  | ok i => exact absurd ((decodes_iff_wellFormed k).mp ⟨i, hdec⟩) h

/-- Settles O4: the two round trips and the domain of the decoder. -/
theorem decodeAndEncodeAgree : Obligations.DecodeAndEncodeAgree :=
  ⟨fun _ _ hi => decode_encode hi, rfl, fun _ _ => encode_of_decode, decodes_iff_wellFormed⟩

/-- Settles O2: the six words are the codes of their instructions, and no other word is well formed. -/
theorem commandWordsSelectTheirOperation : Obligations.CommandWordsSelectTheirOperation := by
  refine ⟨decode_encode (i := .cksum) nofun, decode_encode (i := .pack) nofun,
    decode_encode (i := .unpack) nofun, decode_encode (i := .encode false) nofun,
    decode_encode (i := .encode true) nofun, decode_encode (i := .decode) nofun, ?_⟩
  intro c h₀ h₁ h₂ h₃ hB h₄
  exact decode_error_of_not_wellFormed (by simp [Code.wellFormed, h₀, h₁, h₂, h₃, hB, h₄])

/-- Settles O3: the waveforms written out are the codes of the symbols' rows. -/
theorem symbolWaveformsDecode : Obligations.SymbolWaveformsDecode :=
  ⟨decode_encode (i := .sync) nofun, decode_encode (i := .eom) nofun,
    decode_encode (i := .bitOne) nofun, decode_encode (i := .bitZero) nofun, rfl⟩

/-! #### The sink holds nominal pairs -/

/-- Every row appends the nominal pairs of some symbols to the sink, and the one row that writes the carrier
declaration writes 0 (41_pulse_encoder.md R131, R133). -/
theorem exec_emits_symbols {i : Instr} {s t : State} (h : exec i s = .next t) :
    (∃ ys : List Symbol, t.txSeq = s.txSeq ++ ys.map nominalPair) ∧
      (t.txCarrier = s.txCarrier ∨ t.txCarrier = 0) := by
  rcases instr_cases i with rfl | rfl | rfl | ⟨pre, rfl⟩ | rfl | ⟨y, rfl⟩
  · cases h; exact ⟨⟨[], by simp⟩, .inl rfl⟩
  · cases h; exact ⟨⟨[], by simp⟩, .inl rfl⟩
  · obtain ⟨code, f, hend⟩ := endFrame_writes .unpack (unpackResult s.inBits s.inBitcount) s
    cases (hend ▸ exec_unpack_eq s).symm.trans h
    exact ⟨⟨[], by simp⟩, .inl rfl⟩
  · cases (exec_encode_eq pre s).symm.trans h
    exact ⟨⟨_, rfl⟩, .inr rfl⟩
  · obtain ⟨c, r, -, -, hrun⟩ := exec_decode_result s
    obtain ⟨code, f, hend⟩ := endFrame_writes .decode r { s with rxCur := c }
    cases (hend ▸ hrun s rfl rfl).symm.trans h
    exact ⟨⟨[], by simp⟩, .inl rfl⟩
  · cases (exec_symbolInstr y s).symm.trans h
    exact ⟨⟨[y], by simp⟩, .inl rfl⟩

theorem exec_keeps_txNominal {i : Instr} {s t : State} (hs : TxNominal s)
    (hi : exec i s = .next t) : TxNominal t where
  pairs p hp := by
    obtain ⟨hsent, -⟩ := exec_sink hi
    obtain ⟨⟨ys, hseq⟩, -⟩ := exec_emits_symbols hi
    rw [hsent, hseq, ← List.append_assoc, List.mem_append, List.mem_map] at hp
    rcases hp with hold | ⟨y, -, rfl⟩
    · exact hs.pairs p hold
    · exact ⟨y, rfl⟩
  carrier := by
    obtain ⟨-, hkept | hzero⟩ := exec_emits_symbols hi
    · exact hkept.trans hs.carrier
    · exact hzero

/-- Settles O52: the invariant principle at `TxNominal`; DRAIN_TX only moves pairs from the sink to those
sent. -/
theorem everyStepKeepsTheSinkNominal : Obligations.EveryStepKeepsTheSinkNominal := by
  intro s t hs hstep
  refine step_preserves (P := TxNominal) (fun _ _ _ _ _ _ _ _ h => ⟨h.pairs, h.carrier⟩)
    (fun _ _ _ => exec_keeps_txNominal) (fun _ _ _ h => ⟨h.pairs, h.carrier⟩)
    (fun _ _ _ h => ⟨h.pairs, h.carrier⟩) ?drain hs hstep
  case drain => exact fun u n h => ⟨by simpa using h.pairs, h.carrier⟩

/-! #### The layout of a burst -/

/-- Index `j` of copy `k` among `n` copies of a list. -/
theorem getElem?_flatten_replicate {α : Type} {l : List α} {n k j : Nat} (hk : k < n)
    (hj : j < l.length) : (List.replicate n l).flatten[l.length * k + j]? = l[j]? := by
  induction k generalizing n with
  | zero =>
    obtain ⟨m, rfl⟩ := Nat.exists_eq_add_one_of_ne_zero (Nat.ne_of_gt hk)
    simp [List.replicate_succ, List.getElem?_append_left hj]
  | succ k ih =>
    obtain ⟨m, rfl⟩ := Nat.exists_eq_add_one_of_ne_zero (Nat.ne_of_gt (Nat.zero_lt_of_lt hk))
    have hnext : l.length * (k + 1) + j = l.length + (l.length * k + j) := by ring
    rw [List.replicate_succ, List.flatten_cons, hnext,
      List.getElem?_append_right (Nat.le_add_right _ _), Nat.add_sub_cancel_left,
      ih (Nat.lt_of_succ_lt_succ hk)]

@[simp] theorem frameCopySymbols_length (w : FrameWord) : (frameCopySymbols w).length = 66 := by
  simp [frameCopySymbols, Config.frameBits]

theorem frameCopySymbols_sync (w : FrameWord) : (frameCopySymbols w)[0]? = some .sync := rfl

theorem frameCopySymbols_bit (w : FrameWord) {i : Nat} (hi : i < 64) :
    (frameCopySymbols w)[1 + i]? = some (bitSymbol (wireBit w i)) := by
  simp [frameCopySymbols, Config.frameBits, Nat.add_comm 1 i, List.getElem?_append_left, hi]

theorem frameCopySymbols_eom (w : FrameWord) : (frameCopySymbols w)[65]? = some .eom := by
  simp [frameCopySymbols, Config.frameBits]

/-- The symbols in front of the copies (30_encoding.md R80). -/
def preambleSymbols (pre : Bool) : List Symbol :=
  if pre then List.replicate Config.preambleLen .preambleBit else []

theorem burstSymbols_eq (pre : Bool) (w : FrameWord) :
    burstSymbols pre w =
      preambleSymbols pre ++ (List.replicate Config.repeats (frameCopySymbols w)).flatten := rfl

@[simp] theorem preambleSymbols_length (pre : Bool) :
    (preambleSymbols pre).length = if pre then 8 else 0 := by cases pre <;> rfl

theorem preambleSymbols_get {pre : Bool} {j : Nat} (hj : j < (preambleSymbols pre).length) :
    (preambleSymbols pre)[j]? = some .preambleBit := by
  cases pre with
  | true => exact List.getElem?_replicate_of_lt hj
  | false => exact absurd hj (Nat.not_lt_zero j)

/-- Symbol `j` of copy `k` of a burst. -/
theorem burstSymbols_copy (pre : Bool) (w : FrameWord) {k j : Nat} (hk : k < 6) (hj : j < 66) :
    (burstSymbols pre w)[(preambleSymbols pre).length + 66 * k + j]? = (frameCopySymbols w)[j]? := by
  have hcopy := getElem?_flatten_replicate (l := frameCopySymbols w) (n := Config.repeats) hk
    (by simpa using hj)
  rw [frameCopySymbols_length] at hcopy
  rw [burstSymbols_eq, Nat.add_assoc, List.getElem?_append_right (Nat.le_add_right _ _),
    Nat.add_sub_cancel_left, hcopy]

/-- Settles O30: the preamble's symbols, then each index of a copy inside its copy. -/
theorem burstLayout : Obligations.BurstLayout := by
  intro pre w p
  have hp : (preambleSymbols pre).length = p := preambleSymbols_length pre
  refine ⟨?length, fun j hj => ?preamble, fun k hk => ⟨?sync, fun i hi => ?bit, ?eom⟩⟩
  case length => simp [burstSymbols_eq, hp, Config.repeats]
  case preamble =>
    rw [← hp] at hj
    rw [burstSymbols_eq, List.getElem?_append_left hj, preambleSymbols_get hj]
  case sync =>
    rw [← hp]
    exact (burstSymbols_copy pre w (j := 0) hk (by omega)).trans (frameCopySymbols_sync w)
  case bit =>
    rw [← hp, Nat.add_assoc _ 1 i, burstSymbols_copy pre w hk (by omega), frameCopySymbols_bit w hi]
    unfold wireBit
    cases w.getLsbD (63 - i) <;> rfl
  case eom => rw [← hp, burstSymbols_copy pre w hk (by omega), frameCopySymbols_eom]

/-! #### Register accesses that are refused -/

theorem hostWrite_reserved {num : BitVec 4} (h : regOfNum num = none) (data : Nat) (s : State) :
    hostWrite num data s = .refused (.reservedRegister num) := by
  simp [hostWrite, h]

theorem hostRead_reserved {num : BitVec 4} (h : regOfNum num = none) (s : State) :
    hostRead num s = .refused (.reservedRegister num) := by
  simp [hostRead, h]

theorem hostWrite_readOnly {num : BitVec 4} {r : Reg} (hr : regOfNum num = some r)
    (hw : r.hostWrites = false) (data : Nat) (s : State) :
    hostWrite num data s = .refused (.writeReadOnly r) := by
  simp [hostWrite, hr, hw]

theorem hostWrite_tooWide {num : BitVec 4} {r : Reg} {data : Nat} (hr : regOfNum num = some r)
    (hw : r.hostWrites = true) (hd : 2 ^ r.width ≤ data) (s : State) :
    hostWrite num data s = .refused (.dataTooWide r data) := by
  simp [hostWrite, hr, hw, hd]

theorem runCode_of_decode_error {k : Code} {e : DecodeReject} (h : decode k = .error e) (s : State) :
    runCode k s = .refused (refusalOf e) := by
  simp [runCode, h]

/-- The read-only registers by number (10_state.md R21). -/
theorem regOfNum_readOnly : ∀ num : BitVec 4, 0x1#4 = num ∨ (0x7#4 ≤ num ∧ num ≤ 0xD#4) →
    ∃ r ∈ Reg.all, regOfNum num = some r ∧ r.hostWrites = false := by decide

/-- The writable registers by number, with their widths (10_state.md R21). -/
theorem regOfNum_writable : ∀ p ∈ [(0x0#4, 4), (0x2#4, 24), (0x3#4, 16), (0x4#4, 8), (0x5#4, 64),
    (0x6#4, 7)], ∃ r ∈ Reg.all, regOfNum p.1 = some r ∧ r.hostWrites = true ∧ r.width = p.2 := by
  decide

/-- Settles O8: the host port asks the decoder, which rejects each of these words by name. -/
theorem illegalCommandWordsAreRefused : Obligations.IllegalCommandWordsAreRefused := by
  intro s rest c hpending
  have hstep : step s = runCode (.command c) { s with pending := rest } :=
    (step_of_pending hpending).trans (hostWrite_cmd c _)
  refine ⟨fun hc => ?reserved, fun hc => ?pre⟩
  case reserved =>
    have hdec : decode (.command c) = .error (.reservedOp c) := by
      rcases hc with rfl | rfl | rfl | rfl | rfl | rfl <;> rfl
    exact hstep.trans (runCode_of_decode_error hdec _)
  case pre =>
    have hdec : decode (.command c) = .error (.preWithoutEncode c) := by
      rcases hc with rfl | rfl | rfl | rfl <;> rfl
    exact hstep.trans (runCode_of_decode_error hdec _)

/-- Settles O9: the two numbers name no register. -/
theorem reservedRegistersRefuseAllAccess : Obligations.ReservedRegistersRefuseAllAccess := by
  intro s rest num hnum
  have hnone : regOfNum num = none := by rcases hnum with rfl | rfl <;> rfl
  exact ⟨fun data hpending => (step_of_pending hpending).trans (hostWrite_reserved hnone data _),
    fun hpending => (step_of_pending hpending).trans (hostRead_reserved hnone _)⟩

/-- Settles O10: the access right, then the width, of the register the number names. -/
theorem illegalRegisterAccessIsRefused : Obligations.IllegalRegisterAccessIsRefused := by
  intro s rest
  refine ⟨fun num data hnum hpending => ?_, step_of_pending, fun num w data hmem hd hpending => ?_⟩
  · obtain ⟨r, -, hr, hw⟩ := regOfNum_readOnly num hnum
    exact ⟨r, hr, (step_of_pending hpending).trans (hostWrite_readOnly hr hw data _)⟩
  · obtain ⟨r, -, hr, hw, rfl⟩ := regOfNum_writable (num, w) hmem
    exact ⟨r, hr, (step_of_pending hpending).trans (hostWrite_tooWide hr hw hd _)⟩

/-! #### Register accesses that are accepted -/

@[simp] theorem regOfNum_num (r : Reg) : regOfNum r.num = some r := by cases r <;> rfl

@[simp] theorem storeReg_inDevice (v : BitVec 24) (s : State) :
    storeReg .inDevice v.toNat s = { s with inDevice := v } := by simp [storeReg]

@[simp] theorem storeReg_inAddress (v : BitVec 16) (s : State) :
    storeReg .inAddress v.toNat s = { s with inAddress := v } := by simp [storeReg]

@[simp] theorem storeReg_inCommand (v : BitVec 8) (s : State) :
    storeReg .inCommand v.toNat s = { s with inCommand := v } := by simp [storeReg]

@[simp] theorem storeReg_inBits (v : BitVec 64) (s : State) :
    storeReg .inBits v.toNat s = { s with inBits := v } := by simp [storeReg]

@[simp] theorem storeReg_inBitcount (v : BitVec 7) (s : State) :
    storeReg .inBitcount v.toNat s = { s with inBitcount := v } := by simp [storeReg]

/-- A value of an IN register's width is stored (30_encoding.md R73). -/
theorem hostWrite_value (r : Reg) {n : Nat} (v : BitVec n) (hn : r.width = n)
    (hw : r.hostWrites = true) (hc : r ≠ .cmd) (s : State) :
    hostWrite r.num v.toNat s = .next (storeReg r v.toNat s) :=
  hostWrite_stores s (regOfNum_num r) hw hc (hn ▸ v.isLt)

/-- Settles O11: each write fits, and is stored into the register its number names. -/
theorem hostWriteStoresOneOperand : Obligations.HostWriteStoresOneOperand := by
  intro s rest
  refine ⟨fun v h => ?device, fun v h => ?address, fun v h => ?command, fun v h => ?bits,
    fun v h => ?count⟩
  case device =>
    simpa using (step_of_pending h).trans (hostWrite_value .inDevice v rfl rfl nofun _)
  case address =>
    simpa using (step_of_pending h).trans (hostWrite_value .inAddress v rfl rfl nofun _)
  case command =>
    simpa using (step_of_pending h).trans (hostWrite_value .inCommand v rfl rfl nofun _)
  case bits =>
    simpa using (step_of_pending h).trans (hostWrite_value .inBits v rfl rfl nofun _)
  case count =>
    simpa using (step_of_pending h).trans (hostWrite_value .inBitcount v rfl rfl nofun _)

theorem hostRead_of_readReg {r : Reg} {v : BitVec 64} {s : State} (h : readReg r s = some v) :
    hostRead r.num s = .next { s with replies := s.replies ++ [.data v] } := by
  simp [hostRead, h]

/-- Settles O12: each number is that of a register that holds the value beside it. -/
theorem hostReadReturnsTheRegister : Obligations.HostReadReturnsTheRegister := by
  intro s rest num v hmem hpending
  have hreg : ∃ r : Reg, num = r.num ∧ readReg r s = some (BitVec.ofNat 64 v) := by
    simp only [List.mem_cons, Prod.mk.injEq, List.not_mem_nil, or_false] at hmem
    rcases hmem with ⟨rfl, rfl⟩ | ⟨rfl, rfl⟩ | ⟨rfl, rfl⟩ | ⟨rfl, rfl⟩ | ⟨rfl, rfl⟩ | ⟨rfl, rfl⟩ |
      ⟨rfl, rfl⟩ | ⟨rfl, rfl⟩ | ⟨rfl, rfl⟩ | ⟨rfl, rfl⟩ | ⟨rfl, rfl⟩ | ⟨rfl, rfl⟩ | ⟨rfl, rfl⟩
    · exact ⟨.status, rfl, by simp [readReg]⟩
    · exact ⟨.inDevice, rfl, by simp [readReg]⟩
    · exact ⟨.inAddress, rfl, by simp [readReg]⟩
    · exact ⟨.inCommand, rfl, by simp [readReg]⟩
    · exact ⟨.inBits, rfl, by simp [readReg]⟩
    · exact ⟨.inBitcount, rfl, by simp [readReg]⟩
    · exact ⟨.outCksum, rfl, by simp [readReg]⟩
    · exact ⟨.outWord, rfl, by simp [readReg]⟩
    · exact ⟨.decStart, rfl, by simp [readReg]⟩
    · exact ⟨.decDevice, rfl, by simp [readReg]⟩
    · exact ⟨.decAddress, rfl, by simp [readReg]⟩
    · exact ⟨.decCommand, rfl, by simp [readReg]⟩
    · exact ⟨.decCksum, rfl, by simp [readReg]⟩
  obtain ⟨r, rfl, hread⟩ := hreg
  exact (step_of_pending hpending).trans
    (hostRead_of_readReg ((readReg_pending r s rest).trans hread))

/-! #### SETFRAME, SETBITS, SEND and LOOPBACK -/

/-- An access that completes is followed by the rest of the program. -/
theorem performAll_of_next {a : HostAccess} {s t : State} (h : perform a s = .next t)
    (l : List HostAccess) : performAll (a :: l) s = performAll l t := by
  rw [performAll_cons, h]
  rfl

theorem performAll_singleton (a : HostAccess) (s : State) : performAll [a] s = perform a s := by
  rw [performAll_cons]
  cases perform a s <;> rfl

/-- A write of a value of an IN register's width, followed by the rest of the program. -/
theorem performAll_write (r : Reg) {n : Nat} (v : BitVec n) (hn : r.width = n)
    (hw : r.hostWrites = true) (hc : r ≠ .cmd) (l : List HostAccess) (s : State) :
    performAll (.write r.num v.toNat :: l) s = performAll l (storeReg r v.toNat s) := by
  have hwrite : perform (.write r.num v.toNat) s = .next (storeReg r v.toNat s) :=
    hostWrite_value r v hn hw hc s
  exact performAll_of_next hwrite l

/-- SETFRAME leaves its three operands, whatever follows it (30_encoding.md R84). -/
theorem performAll_setFrame (d : BitVec 24) (a : BitVec 16) (c : BitVec 8) (l : List HostAccess)
    (s : State) :
    performAll (setFrameAccesses d.toNat a.toNat c.toNat ++ l) s =
      performAll l { s with inDevice := d, inAddress := a, inCommand := c } := by
  calc performAll (setFrameAccesses d.toNat a.toNat c.toNat ++ l) s
      = performAll (.write Reg.inAddress.num a.toNat :: .write Reg.inCommand.num c.toNat :: l)
          (storeReg .inDevice d.toNat s) := performAll_write .inDevice d rfl rfl nofun _ s
    _ = performAll (.write Reg.inCommand.num c.toNat :: l)
          (storeReg .inAddress a.toNat (storeReg .inDevice d.toNat s)) :=
        performAll_write .inAddress a rfl rfl nofun _ _
    _ = performAll l
          (storeReg .inCommand c.toNat (storeReg .inAddress a.toNat (storeReg .inDevice d.toNat s))) :=
        performAll_write .inCommand c rfl rfl nofun _ _
    _ = performAll l { s with inDevice := d, inAddress := a, inCommand := c } := by simp

/-- SETBITS with a count leaves both (30_encoding.md R84). -/
theorem performAll_setBits (w : BitVec 64) (n : BitVec 7) (s : State) :
    performAll (setBitsAccesses w.toNat (some n.toNat)) s =
      .next { s with inBits := w, inBitcount := n } := by
  calc performAll (setBitsAccesses w.toNat (some n.toNat)) s
      = performAll [.write Reg.inBitcount.num n.toNat] (storeReg .inBits w.toNat s) :=
        performAll_write .inBits w rfl rfl nofun _ s
    _ = performAll [] (storeReg .inBitcount n.toNat (storeReg .inBits w.toNat s)) :=
        performAll_write .inBitcount n rfl rfl nofun _ _
    _ = .next { s with inBits := w, inBitcount := n } := by simp [performAll]

/-- Issuing an operation runs its command word (30_encoding.md R83). -/
theorem perform_issue (op : Op) (pre : Bool) (s : State) :
    perform (issue op pre) s = runCode (.command (commandWord op pre)) s :=
  hostWrite_cmd (commandWord op pre) s

/-- Settles O56: SETBITS without a count is SETBITS with 64. -/
theorem setFrameAndSetBitsWriteTheirOperands : Obligations.SetFrameAndSetBitsWriteTheirOperands :=
  fun s => ⟨fun d a c => performAll_setFrame d a c [] s, fun w n => performAll_setBits w n s,
    fun w => performAll_setBits w 64#7 s⟩

/-- Settles O15: SETFRAME, then the command word of ENCODE. -/
theorem sendSetsTheFrameAndEncodes : Obligations.SendSetsTheFrameAndEncodes := by
  intro s d a c pre
  calc performAll (setFrameAccesses d.toNat a.toNat c.toNat ++ [issue .encode pre]) s
      = performAll [issue .encode pre] { s with inDevice := d, inAddress := a, inCommand := c } :=
        performAll_setFrame d a c _ s
    _ = runCode (encode (.encode pre)) { s with inDevice := d, inAddress := a, inCommand := c } :=
        (performAll_singleton _ _).trans (perform_issue .encode pre _)
    _ = exec (.encode pre) { s with inDevice := d, inAddress := a, inCommand := c } :=
        runCode_of_decode (decode_encode (i := .encode pre) nofun) _

/-- Settles O14: LOAD_RX fits, and DRAIN_TX takes the whole sink. -/
theorem loopbackMovesTheSinkToTheSource : Obligations.LoopbackMovesTheSinkToTheSource := by
  intro s hfit
  have hload : perform (.loadRx s.txSeq) s = .next { s with rxBuf := s.txSeq, rxCur := 0 } := by
    simp [perform, loadRx, hfit]
  calc performAll [.loadRx s.txSeq, .drainTx s.txSeq.length] s
      = performAll [.drainTx s.txSeq.length] { s with rxBuf := s.txSeq, rxCur := 0 } :=
        performAll_of_next hload _
    _ = drainTx s.txSeq.length { s with rxBuf := s.txSeq, rxCur := 0 } := performAll_singleton _ _
    _ = .next { s with rxBuf := s.txSeq, rxCur := 0, txSeq := [], sent := s.sent ++ s.txSeq } := by
        simp [drainTx]

end Sys2Proof.Machine

/-! ### The frame codec (40_frame_codec.md)

First the checksum as a sum over bytes and what flipping one bit does to it; then the fields of an
assembled word; then the validation that UNPACK and DECODE share, and UNPACK's loop over its bit source. Each
statement of 40_frame_codec.md stands after the lemmas it needs. -/

namespace Sys2Proof.Machine

/-! #### The checksum -/

/-- Settles O17: each byte of a field is a quotient of it and a remainder. -/
theorem checksumIsTheByteSum : Obligations.ChecksumIsTheByteSum := by
  intro d a c
  simp only [checksum, BitVec.toNat_ofNat, BitVec.extractLsb'_toNat, Nat.shiftRight_eq_div_pow]
  omega

/-- The sum modulo 256 of the `n` lowest bytes of a field. -/
def byteSum {w : Nat} (n : Nat) (x : BitVec w) : BitVec 8 :=
  ∑ i ∈ Finset.range n, x.extractLsb' (8 * i) 8

/-- The checksum takes each field through the sum of its bytes alone (40_frame_codec.md R100). -/
theorem checksum_eq_byteSum (d : BitVec 24) (a : BitVec 16) (c : BitVec 8) :
    checksum d a c = byteSum 3 d + byteSum 2 a + byteSum 1 c := by
  simp only [checksum, byteSum, Finset.sum_range_succ, Finset.sum_range_zero, BitVec.ofNat_add,
    BitVec.ofNat_toNat, BitVec.setWidth_eq, BitVec.extractLsb'_eq_self, zero_add, Nat.mul_zero]
  ring

/-! #### One flipped bit -/

/-- The flip changes the one bit and no other. -/
theorem getLsbD_flip {n k : Nat} (x : BitVec n) (hk : k < n) (i : Nat) :
    (x ^^^ (1#n <<< k)).getLsbD i = (x.getLsbD i ^^ decide (i = k)) := by
  have hone : (1#n <<< k).getLsbD i = decide (i = k) := by
    rw [← BitVec.twoPow_eq, BitVec.getLsbD_twoPow]
    simp [hk, eq_comm]
  rw [BitVec.getLsbD_xor, hone]

/-- Flipping a bit outside a slice leaves the slice. -/
theorem extractLsb'_flip_of_outside {n k start len : Nat} (x : BitVec n) (hkn : k < n)
    (hk : k < start ∨ start + len ≤ k) :
    (x ^^^ (1#n <<< k)).extractLsb' start len = x.extractLsb' start len := by
  refine BitVec.eq_of_getLsbD_eq fun i hi => ?_
  have hne : start + i ≠ k := by omega
  simp only [BitVec.getLsbD_extractLsb', getLsbD_flip x hkn, hne, decide_false, Bool.xor_false]

/-- Flipping a bit inside a slice changes the slice. -/
theorem extractLsb'_flip_of_inside {n k start len : Nat} (x : BitVec n) (hkn : k < n)
    (hstart : start ≤ k) (hlen : k < start + len) :
    (x ^^^ (1#n <<< k)).extractLsb' start len ≠ x.extractLsb' start len := by
  intro h
  have hbit := congrArg (fun y => y.getLsbD (k - start)) h
  have hin : k - start < len := by omega
  have hat : start + (k - start) = k := by omega
  simp [getLsbD_flip x hkn, hin, hat] at hbit

/-- Flipping a bit of a summed byte changes that byte alone, and so the sum (40_frame_codec.md R109). -/
theorem byteSum_flip_ne {w n k : Nat} (x : BitVec w) (hkw : k < w) (hkn : k < 8 * n) :
    byteSum n (x ^^^ (1#w <<< k)) ≠ byteSum n x := by
  have hmem : k / 8 ∈ Finset.range n := Finset.mem_range.mpr (by omega)
  have hrest : ∑ i ∈ (Finset.range n).erase (k / 8), (x ^^^ (1#w <<< k)).extractLsb' (8 * i) 8 =
      ∑ i ∈ (Finset.range n).erase (k / 8), x.extractLsb' (8 * i) 8 :=
    Finset.sum_congr rfl fun i hi => extractLsb'_flip_of_outside x hkw (by
      have := Finset.ne_of_mem_erase hi
      omega)
  rw [byteSum, byteSum, ← Finset.add_sum_erase _ _ hmem, ← Finset.add_sum_erase _ _ hmem, hrest]
  exact fun h => extractLsb'_flip_of_inside x hkw (by omega) (by omega) (add_right_cancel h)

/-! #### The packed word and its fields -/

theorem toNat_append_eq_add {m n : Nat} (x : BitVec m) (y : BitVec n) :
    (x ++ y).toNat = x.toNat * 2 ^ n + y.toNat := by
  rw [BitVec.toNat_append, ← Nat.shiftLeft_add_eq_or_of_lt y.isLt, Nat.shiftLeft_eq]

/-- A slice read off the number: a quotient and a remainder. -/
theorem extractLsb'_eq_of_toNat {n start len : Nat} {w : BitVec n} {x : BitVec len}
    (h : w.toNat / 2 ^ start % 2 ^ len = x.toNat) : w.extractLsb' start len = x :=
  BitVec.eq_of_toNat_eq (by rwa [BitVec.extractLsb'_toNat, Nat.shiftRight_eq_div_pow])

section Fields

variable (st : BitVec 8) (d : BitVec 24) (a : BitVec 16) (c k : BitVec 8)

/-- The five fields of a frame word at their places (30_encoding.md R74). -/
theorem toNat_frameWord :
    (st ++ d ++ a ++ c ++ k).toNat =
      st.toNat * 2 ^ 56 + d.toNat * 2 ^ 32 + a.toNat * 2 ^ 16 + c.toNat * 2 ^ 8 + k.toNat := by
  simp only [toNat_append_eq_add]
  ring

@[simp] theorem wordStart_append : wordStart (st ++ d ++ a ++ c ++ k) = st :=
  extractLsb'_eq_of_toNat (by rw [toNat_frameWord]; omega)

@[simp] theorem wordDevice_append : wordDevice (st ++ d ++ a ++ c ++ k) = d :=
  extractLsb'_eq_of_toNat (by rw [toNat_frameWord]; omega)

@[simp] theorem wordAddress_append : wordAddress (st ++ d ++ a ++ c ++ k) = a :=
  extractLsb'_eq_of_toNat (by rw [toNat_frameWord]; omega)

@[simp] theorem wordCommand_append : wordCommand (st ++ d ++ a ++ c ++ k) = c :=
  extractLsb'_eq_of_toNat (by rw [toNat_frameWord]; omega)

@[simp] theorem wordChecksum_append : wordChecksum (st ++ d ++ a ++ c ++ k) = k :=
  extractLsb'_eq_of_toNat (by rw [toNat_frameWord]; omega)

end Fields

/-- Settles O18: the packed word is the start code with the fields and their checksum. -/
theorem packPlacesEveryField : Obligations.PackPlacesEveryField :=
  fun d a c => toNat_frameWord Config.startCode d a c (checksum d a c)

/-! #### Validation -/

/-- The word's checksum field is the checksum of its own fields (40_frame_codec.md R104). -/
def ChecksumHolds (w : FrameWord) : Prop :=
  wordChecksum w = checksum (wordDevice w) (wordAddress w) (wordCommand w)

theorem unpackCore_of_holds {w : FrameWord} (h : ChecksumHolds w) :
    unpackCore w =
      some ⟨wordStart w, wordDevice w, wordAddress w, wordCommand w, wordChecksum w⟩ := if_pos h

theorem unpackCore_of_not_holds {w : FrameWord} (h : ¬ ChecksumHolds w) : unpackCore w = none :=
  if_neg h

theorem checksumHolds_of_unpackCore {w : FrameWord} {f : Frame} (h : unpackCore w = some f) :
    ChecksumHolds w := by
  by_contra hbad
  cases (unpackCore_of_not_holds hbad).symm.trans h

/-- The start field is not checked (40_frame_codec.md R104). -/
theorem unpackCore_append (st : BitVec 8) (d : BitVec 24) (a : BitVec 16) (c : BitVec 8) :
    unpackCore (st ++ d ++ a ++ c ++ checksum d a c) = some ⟨st, d, a, c, checksum d a c⟩ := by
  rw [unpackCore_of_holds (by simp [ChecksumHolds])]
  simp

theorem unpackCore_pack (d : BitVec 24) (a : BitVec 16) (c : BitVec 8) :
    unpackCore (pack d a c) = some ⟨0xA3#8, d, a, c, checksum d a c⟩ :=
  unpackCore_append Config.startCode d a c

theorem pack_injective {d d' : BitVec 24} {a a' : BitVec 16} {c c' : BitVec 8}
    (h : pack d a c = pack d' a' c') : d = d' ∧ a = a' ∧ c = c' := by
  have hframe := (unpackCore_pack d a c).symm.trans ((congrArg unpackCore h).trans
    (unpackCore_pack d' a' c'))
  simp only [Option.some.injEq, Frame.mk.injEq] at hframe
  obtain ⟨-, hd, ha, hc, -⟩ := hframe
  exact ⟨hd, ha, hc⟩

/-- Settles O22: the fields come back from an assembled word, and so from Pack, which loses none. -/
theorem unpackInvertsPack : Obligations.UnpackInvertsPack :=
  ⟨unpackCore_append, unpackCore_pack, fun _ _ _ _ _ _ => pack_injective⟩

/-- A flipped bit of a right checksum field is a mismatch: the fields it is the sum of stay as they are
(40_frame_codec.md R109). -/
theorem unpackCore_flip {w : FrameWord} {k : Nat} (h : ∃ f, unpackCore w = some f) (hk : k < 8) :
    unpackCore (w ^^^ (1#64 <<< k)) = none := by
  obtain ⟨f, hf⟩ := h
  have hright : ChecksumHolds w := checksumHolds_of_unpackCore hf
  have hchanged : wordChecksum (w ^^^ (1#64 <<< k)) ≠ wordChecksum w :=
    extractLsb'_flip_of_inside w (by omega) (by omega) (by omega)
  have hdevice : wordDevice (w ^^^ (1#64 <<< k)) = wordDevice w :=
    extractLsb'_flip_of_outside w (by omega) (by omega)
  have haddress : wordAddress (w ^^^ (1#64 <<< k)) = wordAddress w :=
    extractLsb'_flip_of_outside w (by omega) (by omega)
  have hcommand : wordCommand (w ^^^ (1#64 <<< k)) = wordCommand w :=
    extractLsb'_flip_of_outside w (by omega) (by omega)
  apply unpackCore_of_not_holds
  rw [ChecksumHolds, hdevice, haddress, hcommand, ← hright]
  exact hchanged

/-! #### UNPACK -/

/-- The loop of UNPACK with `n` bits to go, when the source holds them all. -/
theorem takeBits_all {bits : BitVec 64} {count : BitVec 7} (hcount : 64 ≤ count.toNat) (n : Nat)
    (hn : n ≤ 64) : takeBits bits count n (64 - n) (bits >>> n) = some bits := by
  induction n with
  | zero => simp [takeBits]
  | succ n ih =>
    have hmore : ¬ count.toNat ≤ 64 - (n + 1) := by omega
    have hnext : 64 - (n + 1) + 1 = 64 - n := by omega
    have hbit : 63 - (64 - (n + 1)) = n := by omega
    rw [takeBits, if_neg hmore, hnext, hbit, shiftIn_ushiftRight, ih (by omega)]

/-- The loop of UNPACK, when the source runs out before it ends (40_frame_codec.md R105). -/
theorem takeBits_short {bits : BitVec 64} {count : BitVec 7} (k i : Nat) (w : FrameWord)
    (hi : i ≤ count.toNat) (hcount : count.toNat < i + k) : takeBits bits count k i w = none := by
  induction k generalizing i w with
  | zero => omega
  | succ k ih =>
    rw [takeBits]
    split_ifs with hend
    · rfl
    · exact ih _ _ (by omega) (by omega)

theorem unpackResult_short {bits : BitVec 64} {count : BitVec 7} (h : count.toNat < 64) :
    unpackResult bits count = .error .malformedBit := by
  rw [unpackResult, takeBits_short _ _ _ (Nat.zero_le _) (by simpa [Config.frameBits] using h)]

/-- A source of 64 bits is taken as it stands. -/
theorem takeBits_word {bits : BitVec 64} {count : BitVec 7} (h : 64 ≤ count.toNat) :
    takeBits bits count Config.frameBits 0 0#64 = some bits := by
  have hall := takeBits_all (bits := bits) h 64 le_rfl
  rwa [show bits >>> 64 = 0#64 from BitVec.ushiftRight_eq_zero le_rfl] at hall

theorem unpackResult_mismatch {bits : BitVec 64} {count : BitVec 7} (h : 64 ≤ count.toNat)
    (hw : unpackCore bits = none) : unpackResult bits count = .error .checksumMismatch := by
  simp [unpackResult, takeBits_word h, hw]

theorem unpackResult_frame {bits : BitVec 64} {count : BitVec 7} {f : Frame}
    (h : 64 ≤ count.toNat) (hw : unpackCore bits = some f) : unpackResult bits count = .ok f := by
  simp [unpackResult, takeBits_word h, hw]

/-- Settles O21: the source runs out, or its 64 bits do not validate, or they do. -/
theorem unpackResult_from_every_state : Obligations.UnpackResult := by
  intro s
  refine ⟨fun hshort => ?short, fun hfull hbad => ?mismatch, fun hfull hright => ?frame⟩
  case short =>
    rw [exec_unpack_eq, unpackResult_short hshort]
    rfl
  case mismatch =>
    rw [exec_unpack_eq, unpackResult_mismatch hfull (unpackCore_of_not_holds hbad)]
    rfl
  case frame =>
    rw [exec_unpack_eq, unpackResult_frame hfull (unpackCore_of_holds hright)]
    rfl

/-- Settles O23: the sum over bytes for the summed fields, the validation for the checksum field; adding 1
to one device byte instead of another is a collision. -/
theorem singleBitFlipsAreAlwaysCaught : Obligations.SingleBitFlipsAreAlwaysCaught := by
  refine ⟨fun d a c k hk => ?device, fun d a c k hk => ?address, fun d a c k hk => ?command,
    fun w k s hw hk hcount hbits => ?unpack, fun tol w k n s hw hk hsync hbits => ?decode,
    0x000001#24, 0x000100#24, 0#16, 0#8, by decide, by decide⟩
  case device => simpa [checksum_eq_byteSum] using byteSum_flip_ne d hk hk
  case address => simpa [checksum_eq_byteSum] using byteSum_flip_ne a hk hk
  case command => simpa [checksum_eq_byteSum] using byteSum_flip_ne c hk hk
  case unpack =>
    have hbad : unpackCore s.inBits = none := hbits ▸ unpackCore_flip hw hk
    refine ⟨_, exec_unpack_eq s, ?_⟩
    rw [unpackResult_mismatch hcount hbad]
    rfl
  case decode => exact ⟨_, decodeAt_badChecksum hsync hbits (unpackCore_flip hw hk), rfl⟩

/-! #### CKSUM, PACK and frame equality -/

/-- Settles O19: CKSUM's one write and its STATUS; the corner cases are evaluated. -/
theorem cksumResult : Obligations.CksumResult :=
  ⟨fun _ => rfl, by decide, by decide, by decide, by decide⟩

/-- Settles O20: PACK's one write and its STATUS; the start field is the start code at its place. -/
theorem packResult : Obligations.PackResult :=
  ⟨fun _ => rfl, fun _ _ _ => wordStart_append Config.startCode _ _ _ _, by decide, by decide,
    by decide⟩

/-- Settles O24: the three comparisons, read as equations. -/
theorem frameEqualityIgnoresStartAndChecksum :
    Obligations.FrameEqualityIgnoresStartAndChecksum := by
  intro f g
  simp [frameEq, and_assoc]

end Sys2Proof.Machine

/-! ### The pulse encoder (41_pulse_encoder.md)

First the symbols one by one; then a run of symbol rows and ENCODE as such a run; then the air time of a
burst, added up along its parts: preamble, copies, and the pairs of one copy. -/

namespace Sys2Proof.Machine

/-! #### Single symbols -/

/-- Settles O26: the products of the symbols' units are evaluated. -/
theorem timingTableIsNominal : Obligations.TimingTableIsNominal :=
  ⟨rfl, rfl, rfl, rfl, rfl⟩

/-- Settles O27: EmitSymbol is the emission of its nominal pair, and EmitBit that of its bit's symbol. -/
theorem emitSymbolAppendsOnePair : Obligations.EmitSymbolAppendsOnePair :=
  ⟨fun _ _ => rfl, fun _ => rfl, fun _ => rfl⟩

/-- Settles O28: each row is EmitSymbol, whose pair is evaluated. -/
theorem symbolRowsEmitTheirPair : Obligations.SymbolRowsEmitTheirPair := fun s =>
  ⟨exec_symbolInstr .sync s, exec_symbolInstr .eom s, exec_symbolInstr .bitOne s,
    exec_symbolInstr .bitZero s, exec_symbolInstr .preambleBit s⟩

/-! #### ENCODE -/

/-- Symbol rows run one after another append their nominal pairs in order (41_pulse_encoder.md R131). -/
theorem execAll_symbolInstr (ys : List Symbol) (s : State) :
    execAll (ys.map symbolInstr) s =
      .next { s with txSeq := s.txSeq ++ ys.map nominalPair } := by
  induction ys generalizing s with
  | nil => simp [execAll]
  | cons y ys ih => simp [execAll, exec_symbolInstr, ih, emitSymbol, emit]

/-- Settles O32: the run of the symbol rows appends the pairs ENCODE appends. -/
theorem encodeIsTheRunOfItsSymbols : Obligations.EncodeIsTheRunOfItsSymbols := fun pre s =>
  ⟨_, execAll_symbolInstr _ _, exec_encode_eq pre s⟩

/-- Settles O29: the pairs are counted by the burst's layout. -/
theorem encodeAppendsTheBurst : Obligations.EncodeAppendsTheBurst := by
  intro pre s burst
  refine ⟨exec_encode_eq pre s, ?count⟩
  obtain ⟨hlength, -⟩ := burstLayout pre (pack s.inDevice s.inAddress s.inCommand)
  rw [List.length_map, hlength]
  cases pre <;> rfl

/-! #### Air time -/

theorem airTimeUs_append (l m : List PulsePair) :
    airTimeUs (l ++ m) = airTimeUs l + airTimeUs m := by
  induction l with
  | nil => simp [airTimeUs]
  | cons p l ih => simp [airTimeUs, ih, Nat.add_assoc]

theorem airTimeUs_flatten_replicate (n : Nat) (l : List PulsePair) :
    airTimeUs (List.replicate n l).flatten = n * airTimeUs l := by
  induction n with
  | zero => simp [airTimeUs]
  | succ n ih => rw [List.replicate_succ, List.flatten_cons, airTimeUs_append, ih]; ring

/-- Pairs that all last equally long. -/
theorem airTimeUs_map_const {α : Type} {f : α → PulsePair} {t : Nat}
    (hf : ∀ x, airTimeUs [f x] = t) (l : List α) : airTimeUs (l.map f) = l.length * t := by
  induction l with
  | nil => simp [airTimeUs]
  | cons x l ih =>
    calc airTimeUs ([f x] ++ l.map f) = t + l.length * t := by rw [airTimeUs_append, hf, ih]
      _ = (l.length + 1) * t := by ring

/-- A bit lasts 3 units whatever its value (70_reset_and_hazards.md R240). -/
theorem airTimeUs_bit (b : Bool) : airTimeUs [nominalPair (bitSymbol b)] = 900 := by
  cases b <;> rfl

/-- One copy lasts 230 units: SYNC and EOM 19 each, and 64 bits (70_reset_and_hazards.md R240). -/
theorem airTimeUs_frameCopy (w : FrameWord) :
    airTimeUs ((frameCopySymbols w).map nominalPair) = 69000 := by
  have hbits := airTimeUs_map_const (fun i => airTimeUs_bit (wireBit w i)) (List.range 64)
  calc airTimeUs ((frameCopySymbols w).map nominalPair)
      = airTimeUs ([nominalPair .sync]
          ++ (List.range 64).map (fun i => nominalPair (bitSymbol (wireBit w i)))
          ++ [nominalPair .eom]) := by
        simp [frameCopySymbols, Config.frameBits, Function.comp_def]
    _ = airTimeUs [nominalPair .sync] + 64 * 900 + airTimeUs [nominalPair .eom] := by
        rw [airTimeUs_append, airTimeUs_append, hbits, List.length_range]
    _ = 69000 := rfl

theorem airTimeUs_preamble (pre : Bool) :
    airTimeUs ((preambleSymbols pre).map nominalPair) = if pre then 7200 else 0 := by
  cases pre <;> rfl

/-- Settles O31: the preamble and six copies. -/
theorem burstAirTimeIsFixed : Obligations.BurstAirTimeIsFixed := by
  intro pre w
  rw [burstSymbols_eq, List.map_append, List.map_flatten, List.map_replicate, airTimeUs_append,
    airTimeUs_preamble, airTimeUs_flatten_replicate, airTimeUs_frameCopy]
  cases pre <;> rfl

end Sys2Proof.Machine

/-! ### The pulse decoder (42_pulse_decoder.md)

First the tolerance comparator and what a separating tolerance tells apart; then the outcomes of one DECODE,
with everything that is said of all of them read off one list; then the round trip through ENCODE. -/

namespace Sys2Proof.Machine

/-! #### The comparator -/

/-- Every duration lies within its own bounds (42_pulse_decoder.md R160). -/
theorem matchDur_self (tol : Tolerance) (x : Duration) : matchDur tol x x.toNat = true := by
  obtain ⟨mode, pct, abs⟩ := tol
  rw [matchDur_iff]
  cases mode with
  | pct =>
    have hlo : x.toNat * (100 - pct.val) ≤ x.toNat * 100 := Nat.mul_le_mul_left _ (by omega)
    have hhi : x.toNat * 100 ≤ x.toNat * (100 + pct.val) := Nat.mul_le_mul_left _ (by omega)
    simp only [matchLo, matchHi]
    omega
  | abs => simp only [matchLo, matchHi]; omega

/-- Settles O33: the bounds are those of the comparator, read in the integers and at 25 percent. -/
theorem matchFollowsItsBounds : Obligations.MatchFollowsItsBounds := by
  refine ⟨fun t a x n => matchDur_iff, fun t a x n => ?abs, matchDur_self, fun a x => ?listed⟩
  case abs => rw [matchDur_iff]; simp only [matchLo, matchHi]; omega
  case listed => simp [matchDur_iff, matchLo, matchHi]

/-- A pair matches a symbol component by component (42_pulse_decoder.md R161). -/
theorem matchPair_some_iff {tol : Tolerance} {p : PulsePair} {y : Symbol} :
    matchPair tol (some p) y = true ↔
      matchDur tol p.mark (timing y).1 = true ∧ matchDur tol p.space (timing y).2 = true := by
  simp [matchPair]

/-- BIT_ONE decides first (42_pulse_decoder.md R162). -/
theorem classifyBit_of_bitOne {tol : Tolerance} {p : Option PulsePair}
    (h : matchPair tol p .bitOne = true) : classifyBit tol p = some true := if_pos h

theorem classifyBit_of_not_bitOne {tol : Tolerance} {p : Option PulsePair}
    (h : matchPair tol p .bitOne = false) :
    classifyBit tol p = if matchPair tol p .bitZero then some false else none := by
  simp [classifyBit, h]

/-- Settles O34: by whether BIT_ONE matches, and then whether BIT_ZERO does. -/
theorem classifyBitPrefersBitOne : Obligations.ClassifyBitPrefersBitOne := by
  refine ⟨fun _ _ => rfl, fun _ _ _ => matchPair_some_iff, fun tol p => ?_⟩
  cases hone : matchPair tol p .bitOne with
  | true => simp [classifyBit_of_bitOne hone]
  | false => cases hzero : matchPair tol p .bitZero <;> simp [classifyBit_of_not_bitOne hone, hzero]

/-! #### Separating tolerances -/

/-- The symbols the decoder looks for (42_pulse_decoder.md R174). -/
def soughtSymbols : List Symbol := [.sync, .eom, .bitOne, .bitZero]

theorem mem_soughtSymbols {y : Symbol} (h : y ≠ .preambleBit) : y ∈ soughtSymbols := by
  cases y with
  | sync | eom | bitOne | bitZero => decide
  | preambleBit => exact absurd rfl h

theorem separating_iff_pairwise {tol : Tolerance} :
    Separating tol ↔ soughtSymbols.Pairwise (symbolsApart tol) := by
  simp [Separating, soughtSymbols, and_assoc]

theorem symbolsApart_comm {tol : Tolerance} {y z : Symbol} (h : symbolsApart tol y z) :
    symbolsApart tol z y :=
  h.imp Or.symm Or.symm

theorem Separating.apart_of_ne {tol : Tolerance} (h : Separating tol) {y z : Symbol}
    (hy : y ≠ .preambleBit) (hz : z ≠ .preambleBit) (hne : y ≠ z) : symbolsApart tol y z :=
  have : Std.Symm (symbolsApart tol) := ⟨fun _ _ => symbolsApart_comm⟩
  (separating_iff_pairwise.mp h).forall (mem_soughtSymbols hy) (mem_soughtSymbols hz) hne

/-- A duration lies in only one of two ranges that are apart. -/
theorem not_matchDur_both {tol : Tolerance} {x : Duration} {m n : Nat}
    (h : apart (matchLo tol m) (matchHi tol m) (matchLo tol n) (matchHi tol n))
    (hm : matchDur tol x m = true) : matchDur tol x n ≠ true := by
  rw [matchDur_iff] at hm
  rw [ne_eq, matchDur_iff]
  omega

/-- No pair matches two symbols that are apart. -/
theorem not_matchPair_both {tol : Tolerance} {p : Option PulsePair} {y z : Symbol}
    (h : symbolsApart tol y z) (hy : matchPair tol p y = true) : matchPair tol p z ≠ true := by
  cases p with
  | none => cases hy
  | some p =>
    obtain ⟨hmark, hspace⟩ := matchPair_some_iff.mp hy
    rw [ne_eq, matchPair_some_iff]
    rintro ⟨hmark', hspace'⟩
    rcases h with h | h
    · exact not_matchDur_both h hmark hmark'
    · exact not_matchDur_both h hspace hspace'

theorem eq_of_matchPair_both {tol : Tolerance} (h : Separating tol) {p : Option PulsePair}
    {y z : Symbol} (hy : y ≠ .preambleBit) (hz : z ≠ .preambleBit)
    (hmy : matchPair tol p y = true) (hmz : matchPair tol p z = true) : y = z := by
  by_contra hne
  exact not_matchPair_both (h.apart_of_ne hy hz hne) hmy hmz

/-- BIT_ONE and BIT_ZERO are the closest of the four symbols, and only 300 and 600 us part them. -/
theorem separating_iff {tol : Tolerance} : Separating tol ↔ matchHi tol 300 < matchLo tol 600 := by
  obtain ⟨mode, pct, abs⟩ := tol
  simp only [Separating, symbolsApart, apart, timing, Symbol.units, Config.unitUs]
  cases mode with
  | pct => simp only [matchLo, matchHi]; omega
  | abs => simp only [matchLo, matchHi]; omega

theorem separating_pct_iff (t : Fin 101) (a : BitVec 32) :
    Separating ⟨.pct, t, a⟩ ↔ t.val ≤ 33 := by
  rw [separating_iff]
  simp only [matchLo, matchHi]
  omega

theorem separating_abs_iff (t : Fin 101) (a : BitVec 32) :
    Separating ⟨.abs, t, a⟩ ↔ a.toNat ≤ 149 := by
  rw [separating_iff]
  simp only [matchLo, matchHi]
  omega

/-- Settles O35: the two thresholds, and ranges that are apart share no duration. -/
theorem separatingTolerances : Obligations.SeparatingTolerances :=
  ⟨separating_pct_iff, separating_abs_iff, fun _ _ _ _ h => eq_of_matchPair_both h⟩

/-! #### The outcomes of one DECODE -/

/-- Settles O36: the scan runs out, and a cursor in bounds runs out at the end. -/
theorem decodeWithoutSync : Obligations.DecodeWithoutSync := by
  intro tol s hcur hno
  rw [decodeAt_noSync hno, max_eq_right hcur]
  rfl

/-- Settles O37: the field read stops. -/
theorem decodeStopsAtTheFirstBadSymbol : Obligations.DecodeStopsAtTheFirstBadSymbol :=
  fun _ _ _ _ hk hi hbits hbad => decodeAt_badSymbol hk hi hbits hbad

/-- Settles O38: the validation of the 64 bits fails. -/
theorem decodeRejectsABadChecksum : Obligations.DecodeRejectsABadChecksum :=
  fun _ _ _ _ hk hbits hw => decodeAt_badChecksum hk hbits (unpackCore_of_not_holds hw)

/-- Settles O39: the validation of the 64 bits gives back their fields. -/
theorem decodeReturnsTheFrame : Obligations.DecodeReturnsTheFrame :=
  fun _ _ _ _ hk hbits hw => decodeAt_frame hk hbits (unpackCore_of_holds hw)

/-- What a DECODE from `s` can come to: each outcome with the SYNC it found or missed and with all it
writes (42_pulse_decoder.md R163 to R169). -/
inductive DecodeOutcome (tol : Tolerance) (s : State) : State → Prop where
  | noSync (ahead : NoSyncBetween tol s s.rxCur s.rxLen) : DecodeOutcome tol s
      (fail .noSyncFound .decode { s with rxCur := max s.rxCur s.rxLen })
  | badSymbol (k i : Nat) (first : FirstSync tol s k) (bit : i < 64) : DecodeOutcome tol s
      (fail .unrecognizedSymbol .decode { s with rxCur := k + 1 + i })
  | badChecksum (k : Nat) (first : FirstSync tol s k) : DecodeOutcome tol s
      (fail .checksumMismatch .decode { s with rxCur := k + 65 })
  | frame (k : Nat) (f : Frame) (first : FirstSync tol s k) : DecodeOutcome tol s
      (complete .ok .decode (setDec f { s with
        rxCur := if matchPair tol s.rxBuf[k + 65]? .eom then k + 66 else k + 65 }))

/-- DECODE completes from every state with one of its outcomes. -/
theorem decodeAt_outcome (tol : Tolerance) (s : State) :
    ∃ t, decodeAt tol s = .next t ∧ DecodeOutcome tol s t := by
  rcases noSync_or_firstSync tol s with hno | ⟨k, hk⟩
  · exact ⟨_, decodeAt_noSync hno, .noSync hno⟩
  rcases bits_or_firstBad tol { s with rxCur := k + 1 } with ⟨w, hbits⟩ | ⟨i, hi, hbits, hbad⟩
  · cases hw : unpackCore w with
    | none => exact ⟨_, decodeAt_badChecksum hk hbits hw, .badChecksum k hk⟩
    | some f => exact ⟨_, decodeAt_frame hk hbits hw, .frame k f hk⟩
  · exact ⟨_, decodeAt_badSymbol hk hi hbits hbad, .badSymbol k i hk hi⟩

/-- The row DECODE with its outcome (00_scope.md R7). -/
theorem exec_decode_outcome (s : State) :
    ∃ t, exec .decode s = .next t ∧ DecodeOutcome Config.tolerance s t :=
  decodeAt_outcome Config.tolerance s

/-- Settles O40: the cursor by `decodeAt_rxCur_le`, the rest by outcome. -/
theorem decodeAlwaysCompletes : Obligations.DecodeAlwaysCompletes := by
  intro s
  obtain ⟨t, hrun, houtcome⟩ := exec_decode_outcome s
  have hforward : s.rxCur ≤ t.rxCur := decodeAt_rxCur_le hrun
  refine ⟨t, hrun, hrun, ?frame, hforward, ?status, ?cleared⟩
  case frame => cases houtcome <;> rfl
  case status =>
    cases houtcome with
    | noSync => exact .inr (.inl rfl)
    | badSymbol => exact .inr (.inr (.inl rfl))
    | badChecksum => exact .inr (.inr (.inr rfl))
    | frame => exact .inl rfl
  case cleared =>
    intro hfailed
    cases houtcome with
    | noSync | badSymbol | badChecksum => exact ⟨rfl, rfl, rfl, rfl, rfl⟩
    | frame => exact absurd rfl hfailed

/-- Settles O41: the cursor of each outcome against its first SYNC. -/
theorem decodeConsumesBoundedPairs : Obligations.DecodeConsumesBoundedPairs := by
  intro s
  obtain ⟨t, hrun, houtcome⟩ := exec_decode_outcome s
  refine ⟨t, hrun, ?_⟩
  cases houtcome with
  | noSync ahead => exact ⟨nofun, fun _ => .inl ahead⟩
  | badSymbol k i first bit =>
    refine ⟨nofun, fun _ => .inr ⟨k, first, ?_⟩⟩
    simp only [fail_rxCur]
    omega
  | badChecksum k first => exact ⟨nofun, fun _ => .inr ⟨k, first, Nat.le_add_right k 65, le_refl _⟩⟩
  | frame k f first =>
    refine ⟨fun _ => ⟨k, first, ?_⟩, fun hfailed => absurd rfl hfailed⟩
    cases matchPair Config.tolerance s.rxBuf[k + 65]? .eom <;> simp

/-! #### Repeated DECODE -/

theorem repeatOut_succ_of_first {f : State → Out} {s t : State} (h : f s = .next t) (n : Nat) :
    repeatOut f (n + 1) s = repeatOut f n t := by simp [repeatOut, h]

theorem repeatOut_succ_of_last {f : State → Out} {n : Nat} {s t : State}
    (h : repeatOut f n s = .next t) : repeatOut f (n + 1) s = f t := by
  induction n generalizing s with
  | zero =>
    obtain rfl : s = t := by simpa [repeatOut] using h
    cases hs : f s <;> simp [repeatOut, hs]
  | succ n ih =>
    cases hs : f s with
    | next u => exact (repeatOut_succ_of_first hs _).trans (ih (by simpa [repeatOut, hs] using h))
    | fault r => simp [repeatOut, hs] at h
    | refused r => simp [repeatOut, hs] at h

/-- A SYNC ahead rules out that none is. -/
theorem not_noSync_of_firstSync {tol : Tolerance} {s : State} {k : Nat} (h : FirstSync tol s k) :
    ¬ NoSyncBetween tol s s.rxCur s.rxLen := by
  intro hno
  obtain ⟨hcur, hmatch, -⟩ := id h
  simp [hno k (firstSync_lt_rxLen h) hcur] at hmatch

/-- One DECODE from a cursor in bounds ends the source or gets past its first SYNC (42_pulse_decoder.md
R173). -/
theorem DecodeOutcome.progress {tol : Tolerance} {s t : State} (h : DecodeOutcome tol s t)
    (hcur : s.rxCur ≤ s.rxLen) :
    (t.status = 0x22#6 ∧ t.rxCur = s.rxLen) ∨
      (t.status ≠ 0x22#6 ∧ ∃ k, FirstSync tol s k ∧ k + 1 ≤ t.rxCur) := by
  cases h with
  | noSync ahead => exact .inl ⟨rfl, max_eq_right hcur⟩
  | badSymbol k i first bit => exact .inr ⟨nofun, k, first, Nat.le_add_right _ i⟩
  | badChecksum k first => exact .inr ⟨nofun, k, first, Nat.add_le_add_left (by decide) k⟩
  | frame k f first =>
    refine .inr ⟨nofun, k, first, ?_⟩
    simp only [complete_rxCur, setDec_rxCur]
    split <;> omega

/-- Repeating DECODE reaches NO_SYNC_FOUND: each call before it leaves less of the source
(42_pulse_decoder.md R173). -/
theorem exists_repeat_noSyncFound (s : State) (hcur : s.rxCur ≤ s.rxLen) :
    ∃ n t, 1 ≤ n ∧ n ≤ s.rxLen - s.rxCur + 1 ∧ repeatOut (exec .decode) n s = .next t ∧
      t.status = 0x22#6 := by
  induction hleft : s.rxLen - s.rxCur using Nat.strong_induction_on generalizing s with
  | _ left ih =>
    obtain ⟨t, hrun, houtcome⟩ := exec_decode_outcome s
    rcases houtcome.progress hcur with ⟨hstatus, -⟩ | ⟨-, k, ⟨hk, -, -⟩, hpast⟩
    · exact ⟨1, t, le_refl 1, Nat.le_add_left 1 left, repeatOut_succ_of_first hrun 0, hstatus⟩
    · obtain ⟨hbuf, hbound⟩ := exec_rx hrun
      have hlen : t.rxLen = s.rxLen := congrArg List.length hbuf
      obtain ⟨n, u, -, hn, hrest, hstatus⟩ :=
        ih (t.rxLen - t.rxCur) (by omega) t (by omega) rfl
      exact ⟨n + 1, u, by omega, by omega, (repeatOut_succ_of_first hrun n).trans hrest, hstatus⟩

/-- Settles O42: one call's progress, and the calls that are left. -/
theorem repeatedDecodeReachesNoSyncFound : Obligations.RepeatedDecodeReachesNoSyncFound := by
  intro s hcur
  refine ⟨?call, exists_repeat_noSyncFound s hcur⟩
  obtain ⟨t, hrun, houtcome⟩ := exec_decode_outcome s
  refine ⟨t, hrun, ?_⟩
  rcases houtcome.progress hcur with hended | ⟨hstatus, k, hk, hpast⟩
  · exact ⟨fun _ => hended.1, .inl hended⟩
  · obtain ⟨hle, -, -⟩ := id hk
    exact ⟨fun hno => absurd hno (not_noSync_of_firstSync hk),
      .inr ⟨hstatus, by omega, k, hk, hpast⟩⟩

/-- Settles O43: the first SYNC from the later cursor is the first from the earlier one, and without one
both end at the end of the source. -/
theorem garbageAheadIsSkipped : Obligations.GarbageAheadIsSkipped := by
  intro tol s n hn hgarbage
  have hskip : ∀ hi, NoSyncBetween tol s (s.rxCur + n) hi → NoSyncBetween tol s s.rxCur hi :=
    fun hi hno j hj hle => if hlt : j < s.rxCur + n then hgarbage j hlt hle
      else hno j hj (Nat.le_of_not_lt hlt)
  rcases noSync_or_firstSync tol { s with rxCur := s.rxCur + n } with hno | ⟨k, hk⟩
  · rw [decodeAt_noSync hno, decodeAt_noSync (hskip _ hno)]
    simp only [max_eq_right hn, max_eq_right (Nat.le_of_add_right_le hn)]
  · obtain ⟨hle, hmatch, hno⟩ := id hk
    have hk' : FirstSync tol s k := ⟨Nat.le_of_add_right_le hle, hmatch, hskip k hno⟩
    simp only [decodeAt, decodePass_firstSync hk, decodePass_firstSync hk']

/-! #### A symbol's own pair in the comparator -/

theorem nominalPair_toNat (y : Symbol) :
    (nominalPair y).mark.toNat = (timing y).1 ∧ (nominalPair y).space.toNat = (timing y).2 := by
  cases y <;> exact ⟨rfl, rfl⟩

theorem matchPair_nominalPair_self (tol : Tolerance) (y : Symbol) :
    matchPair tol (some (nominalPair y)) y = true := by
  obtain ⟨hmark, hspace⟩ := nominalPair_toNat y
  rw [matchPair_some_iff, ← hmark, ← hspace]
  exact ⟨matchDur_self tol _, matchDur_self tol _⟩

theorem matchPair_nominalPair_other {tol : Tolerance} (h : Separating tol) {y z : Symbol}
    (hy : y ≠ .preambleBit) (hz : z ≠ .preambleBit) (hne : y ≠ z) :
    matchPair tol (some (nominalPair y)) z = false := by
  simpa using not_matchPair_both (h.apart_of_ne hy hz hne) (matchPair_nominalPair_self tol y)

/-- The preamble's pair is BIT_ZERO's and so no SYNC (30_encoding.md R78). -/
theorem matchPair_preamble_sync {tol : Tolerance} (h : Separating tol) :
    matchPair tol (some (nominalPair .preambleBit)) .sync = false :=
  matchPair_nominalPair_other h (y := .bitZero) nofun nofun nofun

theorem classifyBit_nominalPair {tol : Tolerance} (h : Separating tol) (b : Bool) :
    classifyBit tol (some (nominalPair (bitSymbol b))) = some b := by
  cases b with
  | true => exact classifyBit_of_bitOne (matchPair_nominalPair_self tol .bitOne)
  | false =>
    have hone : matchPair tol (some (nominalPair .bitZero)) .bitOne = false :=
      matchPair_nominalPair_other h nofun nofun nofun
    rw [bitSymbol, classifyBit_of_not_bitOne hone, if_pos (matchPair_nominalPair_self tol .bitZero)]

/-! #### DECODE on a burst -/

/-- Where copy `k` of a burst begins (30_encoding.md R80). -/
def copyStart (pre : Bool) (k : Nat) : Nat := (if pre then 8 else 0) + 66 * k

/-- The source holds the burst of a word as ENCODE emits it. -/
def HoldsBurst (pre : Bool) (w : FrameWord) (s : State) : Prop :=
  s.rxBuf = (burstSymbols pre w).map nominalPair

section

variable {tol : Tolerance} {pre : Bool} {w : FrameWord} {s : State} {k : Nat}

theorem HoldsBurst.rxLen (h : HoldsBurst pre w s) : s.rxLen = copyStart pre 6 := by
  obtain ⟨hlength, -⟩ := burstLayout pre w
  rw [State.rxLen, h, List.length_map, hlength, copyStart]

/-- Pair `j` of copy `k` is the nominal pair of the copy's symbol `j`. -/
theorem HoldsBurst.copy (h : HoldsBurst pre w s) (hk : k < 6) {j : Nat} (hj : j < 66) :
    s.rxBuf[copyStart pre k + j]? = ((frameCopySymbols w)[j]?).map nominalPair := by
  rw [h, List.getElem?_map, copyStart, ← preambleSymbols_length, burstSymbols_copy pre w hk hj]

theorem HoldsBurst.preamble (h : HoldsBurst pre w s) {j : Nat} (hj : j < copyStart pre 0) :
    s.rxBuf[j]? = some (nominalPair .preambleBit) := by
  obtain ⟨-, hpreamble, -⟩ := burstLayout pre w
  rw [h, List.getElem?_map, hpreamble j hj]
  rfl

/-- The cursor stands where copy `k` is the next: at its SYNC, or for the first copy at the preamble. -/
def AtCopy (pre : Bool) (k : Nat) (s : State) : Prop :=
  s.rxCur = copyStart pre k ∨ (k = 0 ∧ s.rxCur = 0)

/-- DECODE skips the preamble and finds the SYNC of the next copy. -/
theorem HoldsBurst.firstSync (h : HoldsBurst pre w s) (hsep : Separating tol) (hk : k < 6)
    (hat : AtCopy pre k s) : FirstSync tol s (copyStart pre k) := by
  have hsync : s.rxBuf[copyStart pre k]? = some (nominalPair .sync) :=
    (h.copy hk (by decide)).trans (congrArg _ (frameCopySymbols_sync w))
  refine ⟨?ahead, by rw [hsync, matchPair_nominalPair_self], fun j hj hcur => ?skipped⟩
  case ahead => rcases hat with hat | ⟨-, hat⟩ <;> omega
  case skipped =>
    rcases hat with hat | ⟨rfl, -⟩
    · omega
    · rw [h.preamble hj, matchPair_preamble_sync hsep]

theorem HoldsBurst.bitsAfter (h : HoldsBurst pre w s) (hsep : Separating tol) (hk : k < 6) :
    BitsAfter tol s (copyStart pre k) w := by
  intro i hi
  rw [Nat.add_assoc, h.copy hk (by omega), frameCopySymbols_bit w hi, Option.map_some,
    classifyBit_nominalPair hsep]

theorem HoldsBurst.eom (h : HoldsBurst pre w s) (hk : k < 6) :
    matchPair tol s.rxBuf[copyStart pre k + 65]? .eom = true := by
  rw [h.copy hk (by decide), frameCopySymbols_eom, Option.map_some, matchPair_nominalPair_self]

/-- The state after `k` copies of a frame were decoded from `s` (42_pulse_decoder.md R175). -/
def afterCopies (pre : Bool) (f : Frame) (k : Nat) (s : State) : State :=
  complete .ok .decode (setDec f { s with rxCur := copyStart pre k })

/-- One DECODE takes one copy, EOM and all. -/
theorem HoldsBurst.decodeAt (h : HoldsBurst pre w s) (hsep : Separating tol) (hk : k < 6)
    (hat : AtCopy pre k s) {f : Frame} (hw : unpackCore w = some f) :
    decodeAt tol s = .next (afterCopies pre f (k + 1) s) := by
  rw [decodeAt_frame (h.firstSync hsep hk hat) (h.bitsAfter hsep hk) hw, if_pos (h.eom hk)]
  rfl

/-- DECODE takes the copies one after another. -/
theorem HoldsBurst.repeatOut_decodeAt (h : HoldsBurst pre w s) (hsep : Separating tol)
    (hcur : s.rxCur = 0) {f : Frame} (hw : unpackCore w = some f) (hk : k < 6) :
    repeatOut (Machine.decodeAt tol) (k + 1) s = .next (afterCopies pre f (k + 1) s) := by
  induction k with
  | zero => exact repeatOut_succ_of_first (h.decodeAt hsep hk (.inr ⟨rfl, hcur⟩) hw) 0
  | succ k ih =>
    have hrest : HoldsBurst pre w (afterCopies pre f (k + 1) s) := h
    rw [repeatOut_succ_of_last (ih (by omega)), hrest.decodeAt hsep hk (.inl rfl) hw]
    rfl

/-- Behind the last copy nothing is left to decode. -/
theorem HoldsBurst.decodeAt_end (h : HoldsBurst pre w s) (f : Frame) :
    ∃ y, Machine.decodeAt tol (afterCopies pre f 6 s) = .next y ∧ y.status = 0x22#6 := by
  have hend : (afterCopies pre f 6 s).rxCur = (afterCopies pre f 6 s).rxLen := h.rxLen.symm
  exact ⟨_, decodeAt_noSync fun j hj hle => absurd hj (by omega), rfl⟩

end

/-! #### The round trip -/

/-- ENCODE from an empty sink, LOAD_RX of the sink and DRAIN_TX of it leave the burst in the source
(41_pulse_encoder.md R133, 20_memory.md R61). -/
theorem encode_load_drain {pre : Bool} {cap : Nat} {s : State} (htx : s.txSeq = [])
    (hcap : (if pre then 404 else 396) ≤ cap) :
    ∃ t u v, exec (.encode pre) s = .next t ∧ loadRx cap t.txSeq t = .next u ∧
      drainTx t.txSeq.length u = .next v ∧
      HoldsBurst pre (pack s.inDevice s.inAddress s.inCommand) v ∧ v.rxCur = 0 := by
  obtain ⟨hencode, hcount⟩ := encodeAppendsTheBurst pre s
  rw [htx, List.nil_append] at hencode
  refine ⟨_, _, _, hencode, if_pos (by rw [hcount]; exact hcap), if_pos (le_refl _), rfl, rfl⟩

/-- Settles O44: six DECODEs take the burst's six copies of a packed word, whose validation gives the frame
back, and the seventh starts at the end of the source. -/
theorem encodeDecodeRoundTrip : Obligations.EncodeDecodeRoundTrip := by
  intro tol cap s pre hsep hcap htx
  obtain ⟨t, u, v, hencode, hload, hdrain, hburst, hcur⟩ := encode_load_drain htx hcap
  have hdecodes := fun k => hburst.repeatOut_decodeAt (k := k) hsep hcur
    (unpackCore_pack s.inDevice s.inAddress s.inCommand)
  refine ⟨t, u, v, hencode, hload, hdrain, fun k hk hk' => ?copies, ?seventh⟩
  case copies =>
    obtain ⟨j, rfl⟩ := Nat.exists_eq_add_of_le' hk
    exact ⟨_, hdecodes j hk', rfl, rfl, by simp [frameEq, afterCopies], rfl, rfl⟩
  case seventh =>
    rw [repeatOut_succ_of_last (hdecodes 5 (by decide))]
    exact hburst.decodeAt_end _

end Sys2Proof.Machine

/-! ### Refused accesses, the idle block and the failure exit (60_exceptions.md)

First what each access answers, by whether it spells anything (R205); then how a run of accesses comes to
one that does not; then the two states of affairs that are no exception here: an idle block (R213) and a
failed operation (R202). -/

namespace Sys2Proof.Machine

/-! #### Which register accesses spell something -/

/-- The command words that decode, as numbers (30_encoding.md R71). -/
theorem wellFormed_command_iff (c : BitVec 4) :
    (Code.command c).wellFormed = true ↔ c.toNat ∈ [0x0, 0x1, 0x2, 0x3, 0xB, 0x4] := by
  revert c
  decide

theorem regOfNum_reserved {num : BitVec 4} (h : num = 0xE#4 ∨ num = 0xF#4) : regOfNum num = none := by
  rcases h with rfl | rfl <;> rfl

/-- The numbers by what a host write to them can be: CMD, reserved, read-only, an IN register with its
width (10_state.md R21). -/
theorem writeNum_cases : ∀ num : BitVec 4, num = 0x0#4 ∨ (num = 0xE#4 ∨ num = 0xF#4) ∨
    (0x1#4 = num ∨ (0x7#4 ≤ num ∧ num ≤ 0xD#4)) ∨
    ∃ p ∈ [(0x2#4, 24), (0x3#4, 16), (0x4#4, 8), (0x5#4, 64), (0x6#4, 7)], num = p.1 := by decide

/-- The IN registers by number, with their widths (10_state.md R21). -/
theorem regOfNum_operand : ∀ p ∈ [(0x2#4, 24), (0x3#4, 16), (0x4#4, 8), (0x5#4, 64), (0x6#4, 7)],
    ∃ r ∈ Reg.all, regOfNum p.1 = some r ∧ r.hostWrites = true ∧ r.width = p.2 ∧ r ≠ .cmd := by decide

/-- Every other number than CMD's and the reserved two is that of a readable register (10_state.md R21). -/
theorem readNum_cases : ∀ num : BitVec 4, (num = 0x0#4 ∨ num = 0xE#4 ∨ num = 0xF#4) ∨
    ∃ r ∈ Reg.all, num = r.num ∧ r ≠ .cmd := by decide

theorem exists_readReg {r : Reg} (h : r ≠ .cmd) (s : State) : ∃ v, readReg r s = some v := by
  cases r with
  | cmd => exact absurd rfl h
  | _ => exact ⟨_, rfl⟩

/-! #### What an access answers -/

/-- A number that is no command word is too wide for CMD, or the decoder rejects it (30_encoding.md R72,
R73). -/
theorem hostWrite_cmd_refused {data : Nat} (h : data ∉ [0x0, 0x1, 0x2, 0x3, 0xB, 0x4]) (s : State) :
    ∃ r, hostWrite 0x0#4 data s = .refused r := by
  rcases Nat.lt_or_ge data (2 ^ 4) with hfit | hwide
  · obtain ⟨c, rfl⟩ : ∃ c : BitVec 4, c.toNat = data := ⟨.ofNatLT data hfit, rfl⟩
    obtain ⟨e, hdec⟩ := decode_error_of_not_wellFormed (mt (wellFormed_command_iff c).mp h)
    exact ⟨_, (hostWrite_cmd c s).trans (runCode_of_decode_error hdec s)⟩
  · exact ⟨_, hostWrite_tooWide (r := .cmd) rfl rfl hwide s⟩

/-- A command word decodes, and its row completes (30_encoding.md R71). -/
theorem hostWrite_cmd_completes {data : Nat} (h : data ∈ [0x0, 0x1, 0x2, 0x3, 0xB, 0x4]) (s : State) :
    ∃ t, hostWrite 0x0#4 data s = .next t := by
  have hfit : data < 2 ^ 4 := by
    revert data
    decide
  obtain ⟨c, rfl⟩ : ∃ c : BitVec 4, c.toNat = data := ⟨.ofNatLT data hfit, rfl⟩
  obtain ⟨i, hdec⟩ := (decodes_iff_wellFormed (.command c)).mpr ((wellFormed_command_iff c).mpr h)
  obtain ⟨t, hrun, -⟩ := exec_effect i s
  exact ⟨t, (hostWrite_cmd c s).trans ((runCode_of_decode hdec s).trans hrun)⟩

theorem hostWrite_refused {num : BitVec 4} {data : Nat} {s : State}
    (h : SpellsNothing s (.write num data)) : ∃ r, hostWrite num data s = .refused r := by
  rcases h with ⟨rfl, hdata⟩ | hE | hF | h1 | h7D | ⟨w, hmem, hwide⟩
  · exact hostWrite_cmd_refused hdata s
  · exact ⟨_, hostWrite_reserved (regOfNum_reserved (.inl hE)) data s⟩
  · exact ⟨_, hostWrite_reserved (regOfNum_reserved (.inr hF)) data s⟩
  · obtain ⟨r, -, hr, hw⟩ := regOfNum_readOnly num (.inl h1.symm)
    exact ⟨_, hostWrite_readOnly hr hw data s⟩
  · obtain ⟨r, -, hr, hw⟩ := regOfNum_readOnly num (.inr h7D)
    exact ⟨_, hostWrite_readOnly hr hw data s⟩
  · obtain ⟨r, -, hr, hw, rfl, -⟩ := regOfNum_operand (num, w) hmem
    exact ⟨_, hostWrite_tooWide hr hw hwide s⟩

theorem hostWrite_completes {num : BitVec 4} {data : Nat} {s : State}
    (h : ¬ SpellsNothing s (.write num data)) : ∃ t, hostWrite num data s = .next t := by
  simp only [SpellsNothing, not_or] at h
  obtain ⟨hcmd, hE, hF, h1, h7D, hfit⟩ := h
  rcases writeNum_cases num with rfl | (hreserved | hreserved) | (hro | hro) | ⟨⟨_, w⟩, hmem, rfl⟩
  · exact hostWrite_cmd_completes (not_not.mp fun hdata => hcmd ⟨rfl, hdata⟩) s
  · exact absurd hreserved hE
  · exact absurd hreserved hF
  · exact absurd hro.symm h1
  · exact absurd hro h7D
  · obtain ⟨r, -, hr, hw, rfl, hc⟩ := regOfNum_operand _ hmem
    exact ⟨_, hostWrite_stores s hr hw hc (Nat.lt_of_not_le fun hwide => hfit ⟨_, hmem, hwide⟩)⟩

theorem hostRead_refused {num : BitVec 4} {s : State} (h : SpellsNothing s (.read num)) :
    ∃ r, hostRead num s = .refused r := by
  rcases h with rfl | hreserved
  · exact ⟨.readWriteOnly .cmd, rfl⟩
  · exact ⟨_, hostRead_reserved (regOfNum_reserved hreserved) s⟩

theorem hostRead_completes {num : BitVec 4} {s : State} (h : ¬ SpellsNothing s (.read num)) :
    ∃ t, hostRead num s = .next t := by
  obtain ⟨r, -, rfl, hc⟩ := (readNum_cases num).resolve_left h
  obtain ⟨v, hv⟩ := exists_readReg hc s
  exact ⟨_, hostRead_of_readReg hv⟩

/-- An access that spells nothing is refused (60_exceptions.md R205). -/
theorem perform_refused {a : HostAccess} {s : State} (h : SpellsNothing s a) :
    ∃ r, perform a s = .refused r := by
  cases a with
  | write num data => exact hostWrite_refused h
  | read num => exact hostRead_refused h
  | loadRx l => exact ⟨_, if_neg (Nat.not_le_of_lt h)⟩
  | appendRx l => exact ⟨_, if_neg (Nat.not_le_of_lt h)⟩
  | readCur => exact h.elim
  | drainTx n => exact ⟨_, if_neg (Nat.not_le_of_lt h)⟩

/-- An access that spells something completes (30_encoding.md R73, 20_memory.md R61). -/
theorem perform_completes {a : HostAccess} {s : State} (h : ¬ SpellsNothing s a) :
    ∃ t, perform a s = .next t := by
  cases a with
  | write num data => exact hostWrite_completes h
  | read num => exact hostRead_completes h
  | loadRx l => exact ⟨_, if_pos (Nat.le_of_not_lt h)⟩
  | appendRx l => exact ⟨_, if_pos (Nat.le_of_not_lt h)⟩
  | readCur => exact ⟨_, rfl⟩
  | drainTx n => exact ⟨_, if_pos (Nat.le_of_not_lt h)⟩

/-! #### Steps and runs of accesses -/

/-- Whether an access spells something does not depend on what is pending. -/
theorem spellsNothing_pending (a : HostAccess) (s : State) (p : List Input) :
    SpellsNothing { s with pending := p } a ↔ SpellsNothing s a := by cases a <;> rfl

/-- An access leaves the inputs still to issue as they are. -/
theorem perform_keeps_pending {a : HostAccess} {s t : State} (h : perform a s = .next t) :
    t.pending = s.pending := by
  have hself : perform a s = withPending s.pending (perform a s) := perform_withPending a s s.pending
  rw [h, withPending_next, Host.Outcome.next.injEq] at hself
  simpa using congrArg State.pending hself

theorem step_refused {s : State} {a : HostAccess} {rest : List Input}
    (hpending : s.pending = .access a :: rest) (h : SpellsNothing s a) : ∃ r, step s = .refused r := by
  obtain ⟨r, hr⟩ := perform_refused ((spellsNothing_pending a s rest).mpr h)
  exact ⟨r, (step_of_pending hpending).trans hr⟩

/-- A step on an access takes that access off the pending inputs. -/
theorem step_takes_access {s t : State} {a : HostAccess} {rest : List Input}
    (hpending : s.pending = .access a :: rest) (h : step s = .next t) : t.pending = rest :=
  perform_keeps_pending ((step_of_pending hpending).symm.trans h)

theorem step_completes {s : State} {a : HostAccess} {rest : List Input}
    (hpending : s.pending = .access a :: rest) (h : ¬ SpellsNothing s a) :
    ∃ t, step s = .next t ∧ t.pending = rest := by
  obtain ⟨t, ht⟩ := perform_completes (mt (spellsNothing_pending a s rest).mp h)
  have hstep : step s = .next t := (step_of_pending hpending).trans ht
  exact ⟨t, hstep, step_takes_access hpending hstep⟩

/-- A run that goes on is one step and the rest of the run. -/
theorem run_succ_next {n : Nat} {s t : State} (h : core.run (n + 1) s = .next t) :
    ∃ u, step s = .next u ∧ core.run n u = .next t := by
  rw [core_run_succ] at h
  cases hstep : step s with
  | next u => exact ⟨u, rfl, by rwa [hstep] at h⟩
  | fault f => rw [hstep] at h; cases h
  | refused r => rw [hstep] at h; cases h

/-- A run goes on from where its first steps lead. -/
theorem run_add_of_next {m : Nat} {s t : State} (h : core.run m s = .next t) (n : Nat) :
    core.run (m + n) s = core.run n t := by
  induction m generalizing s with
  | zero =>
    cases h
    rw [Nat.zero_add]
  | succ m ih =>
    obtain ⟨u, hstep, hrun⟩ := run_succ_next h
    rw [Nat.add_right_comm, core_run_succ, hstep]
    exact ih hrun

/-- Accesses that were all accepted are no longer pending. -/
theorem run_takes_accesses {l : List HostAccess} {rest : List Input} {s t : State}
    (hpending : s.pending = l.map Input.access ++ rest) (hrun : core.run l.length s = .next t) :
    t.pending = rest := by
  induction l generalizing s with
  | nil =>
    cases hrun
    exact hpending
  | cons a l ih =>
    obtain ⟨u, hstep, hrun⟩ := run_succ_next hrun
    exact ih (step_takes_access hpending hstep) hrun

/-- A refusal ends the run (60_exceptions.md R205). -/
theorem run_succ_of_refused {s : State} {r : Refusal} (h : step s = .refused r) (n : Nat) :
    core.run (n + 1) s = .refused r := by
  rw [core_run_succ, h]
  rfl

/-- Settles O16: an access is refused exactly if it spells nothing, and a run that comes to a refused step
has no next state to go on from. -/
theorem accessesThatSpellNothingRefuseTheRun : Obligations.AccessesThatSpellNothingRefuseTheRun := by
  refine ⟨fun s a rest hpending => ⟨step_refused hpending, step_completes hpending⟩, ?_⟩
  intro l a rest s t hpending hrun hnothing
  obtain ⟨r, hr⟩ := step_refused (run_takes_accesses hpending hrun) hnothing
  refine ⟨r, fun j => ?_⟩
  calc core.run (l.length + 1 + j) s
      = core.run (l.length + (j + 1)) s := by rw [Nat.add_assoc, Nat.add_comm 1 j]
    _ = core.run (j + 1) t := run_add_of_next hrun _
    _ = .refused r := run_succ_of_refused hr j

/-! #### The idle block and the failure exit -/

/-- Settles O6: the step's other case has an input pending. -/
theorem idleStepKeepsAllState : Obligations.IdleStepKeepsAllState := by
  intro s hnone
  rcases step_cases s with ⟨-, hidle⟩ | ⟨x, rest, hpending, -⟩
  · exact hidle
  · cases hnone.symm.trans hpending

/-- Settles O25: the fields by the definition of `fail`, and STATUS as OP above the three bits of CODE. -/
theorem failClearsDecAndReports : Obligations.FailClearsDecAndReports :=
  fun code op _ => ⟨rfl, toNat_append_eq_add op.bits code.bits⟩

end Sys2Proof.Machine

/-! ### The state after reset (70_reset_and_hazards.md)

The block's state at reset (R230), and the base case of the three invariants that every step keeps. -/

namespace Sys2Proof.Machine

/-- Settles O1: each value is the one `State.reset` gives the field; the first thirteen are the stored
registers, then come RX, TX and the carrier. -/
theorem resetStateIsAllZeroAndEmpty : Obligations.ResetStateIsAllZeroAndEmpty := by
  unfold Obligations.ResetStateIsAllZeroAndEmpty
  exact ⟨rfl, rfl, rfl, rfl, rfl, rfl, rfl, rfl, rfl, rfl, rfl, rfl, rfl, rfl, rfl, rfl, rfl, rfl⟩

/-- The cursor stands at the end of the empty buffer, which fits whatever the capacity is. -/
theorem rxBounded_reset : RxBounded State.reset := ⟨Nat.le_refl 0, Nat.zero_le Config.rxCap⟩

/-- The bytes of an all-zero frame add up to 0 (40_frame_codec.md R100). -/
theorem checksum_zero : checksum 0 0 0 = 0 := by decide

/-- STATUS is the word of NONE, and the DEC registers hold the all-zero frame, whose checksum is right. -/
theorem resultsConsistent_reset : ResultsConsistent State.reset where
  status_legal := List.mem_cons_self
  failure_clears _ := ⟨rfl, rfl, rfl, rfl, rfl⟩
  dec_checksum := checksum_zero.symm
  out_word := .inl rfl

/-- No pair stands in the sink or has been sent. -/
theorem txNominal_reset : TxNominal State.reset where
  pairs _ hp := absurd hp List.not_mem_nil
  carrier := rfl

/-- Settles O54: the base cases of O50, O51 and O52. -/
theorem resetMeetsTheInvariants : Obligations.ResetMeetsTheInvariants :=
  ⟨rxBounded_reset, resultsConsistent_reset, txNominal_reset⟩

end Sys2Proof.Machine
